-- ==== Sys2Proof/Word.lean ====
section
/-! DEFINITION. The word types of the core (00_scope.md R7, R8): every register and table entry is 32 bits,
every buffer address and length 64 bits, every buffer element one byte. All of them are unsigned. -/

namespace Sys2Proof

/-- A register or table value, `REG_W` = 32 bits (R7). -/
abbrev Word := BitVec 32

/-- One byte of a buffer (R8). -/
abbrev Byte := BitVec 8

/-- A buffer address or a length, `ADDR_W` = `LEN_W` = 64 bits (R7). -/
abbrev Addr := BitVec 64

/-- The concatenation `{hi, lo}` of two 32-bit halves, `hi` in bits 63:32 (R8). -/
def join (hi lo : Word) : Addr := hi ++ lo

/-- Bits 31:0 of a 64-bit quantity: the half its LO register holds (R63). -/
def loHalf (v : Addr) : Word := v.extractLsb' 0 32

/-- Bits 63:32 of a 64-bit quantity: the half its HI register holds (R63). -/
def hiHalf (v : Addr) : Word := v.extractLsb' 32 32

end Sys2Proof
end

