-- ==== Sys2Proof/Syntax.lean ====
section
/-! DEFINITION. The commands of the core: one constructor of `Instr` per row of spec/opcode_table.json (30_encoding.md
R86), with the free bits of the row (S, D) as its only operands (R88: no immediate, no register number). -/

namespace Sys2Proof

/-- The operation of a command word, its OP field (30_encoding.md R81). -/
inductive Op where
  | buildOp
  | partialOp
  | fullOp
  | finalizeOp
deriving DecidableEq, Repr

/-- The engine of a command word, its ENG field (30_encoding.md R82). -/
inductive Engine where
  | auto
  | scalar
  | s16
  | s16pf
  | s32
  | s32pf
deriving DecidableEq, Repr

/-- The 14 commands (30_encoding.md R86). `seed` is the S bit (R83: the previous register is SEED), `ddist` the D bit
(R84: the prefetch distance is 256). A command whose row fixes S or D at 0 has no such argument. -/
inductive Instr where
  /-- BUILD (41_table_builder.md R125). -/
  | build
  /-- PARTIAL.AUTO (44_finalize_dispatch.md R194). -/
  | partialAuto (seed ddist : Bool)
  /-- PARTIAL.SCALAR (42_scalar_engine.md R140). -/
  | partialScalar (seed : Bool)
  /-- PARTIAL.S16 (43_slice_engines.md R164). -/
  | partialS16 (seed : Bool)
  /-- PARTIAL.S16PF (43_slice_engines.md R165). -/
  | partialS16pf (seed ddist : Bool)
  /-- PARTIAL.S32 (43_slice_engines.md R166). -/
  | partialS32 (seed : Bool)
  /-- PARTIAL.S32PF (43_slice_engines.md R167). -/
  | partialS32pf (seed ddist : Bool)
  /-- FULL.AUTO (44_finalize_dispatch.md R200). -/
  | fullAuto (ddist : Bool)
  /-- FULL.SCALAR (44_finalize_dispatch.md R195). -/
  | fullScalar
  /-- FULL.S16 (44_finalize_dispatch.md R196). -/
  | fullS16
  /-- FULL.S16PF (44_finalize_dispatch.md R197). -/
  | fullS16pf (ddist : Bool)
  /-- FULL.S32 (44_finalize_dispatch.md R198). -/
  | fullS32
  /-- FULL.S32PF (44_finalize_dispatch.md R199). -/
  | fullS32pf (ddist : Bool)
  /-- FINALIZE (44_finalize_dispatch.md R191). -/
  | finalize (seed : Bool)
deriving DecidableEq, Repr

/-- The operation a command performs (R86, column OP). -/
def Instr.op : Instr → Op
  | .build => .buildOp
  | .partialAuto _ _ => .partialOp
  | .partialScalar _ => .partialOp
  | .partialS16 _ => .partialOp
  | .partialS16pf _ _ => .partialOp
  | .partialS32 _ => .partialOp
  | .partialS32pf _ _ => .partialOp
  | .fullAuto _ => .fullOp
  | .fullScalar => .fullOp
  | .fullS16 => .fullOp
  | .fullS16pf _ => .fullOp
  | .fullS32 => .fullOp
  | .fullS32pf _ => .fullOp
  | .finalize _ => .finalizeOp

/-- The engine a command names (R86, column ENG); BUILD and FINALIZE have ENG = 0. -/
def Instr.engine : Instr → Engine
  | .build => .auto
  | .partialAuto _ _ => .auto
  | .partialScalar _ => .scalar
  | .partialS16 _ => .s16
  | .partialS16pf _ _ => .s16pf
  | .partialS32 _ => .s32
  | .partialS32pf _ _ => .s32pf
  | .fullAuto _ => .auto
  | .fullScalar => .scalar
  | .fullS16 => .s16
  | .fullS16pf _ => .s16pf
  | .fullS32 => .s32
  | .fullS32pf _ => .s32pf
  | .finalize _ => .auto

/-- The S bit of a command's word (R83); 0 where the row fixes it. -/
def Instr.seedBit : Instr → Bool
  | .build => false
  | .partialAuto seed _ => seed
  | .partialScalar seed => seed
  | .partialS16 seed => seed
  | .partialS16pf seed _ => seed
  | .partialS32 seed => seed
  | .partialS32pf seed _ => seed
  | .fullAuto _ => false
  | .fullScalar => false
  | .fullS16 => false
  | .fullS16pf _ => false
  | .fullS32 => false
  | .fullS32pf _ => false
  | .finalize seed => seed

/-- The D bit of a command's word (R84); 0 where the row fixes it. -/
def Instr.ddistBit : Instr → Bool
  | .build => false
  | .partialAuto _ ddist => ddist
  | .partialScalar _ => false
  | .partialS16 _ => false
  | .partialS16pf _ ddist => ddist
  | .partialS32 _ => false
  | .partialS32pf _ ddist => ddist
  | .fullAuto ddist => ddist
  | .fullScalar => false
  | .fullS16 => false
  | .fullS16pf ddist => ddist
  | .fullS32 => false
  | .fullS32pf ddist => ddist
  | .finalize _ => false

end Sys2Proof
end

