-- ==== Sys2Proof/Config.lean ====
section
/-! DEFINITION. What an implementation of the core fixes (00_scope.md R7) and the free values of the model. The two
OPEN parameters of R7, `CORE_BASE` and `Admit`, are plain data in `Machine.Platform`, a part of the state that no step
changes, so that every statement about a state is a statement about every base and every admission map (log entry 3). -/

namespace Sys2Proof

/-- `AUTO_ENGINE` (R7, 44_finalize_dispatch.md R193): the engine issue latches for ENG = 0. No result depends on it. -/
def Config.autoEngine : Engine := .s16pf

/-- `SEED` (R7, 10_state.md R38). -/
def Config.seed : Word := 0xFFFFFFFF#32

/-- `DIST_DEFAULT` (R7, 43_slice_engines.md R168). -/
def Config.distDefault : Word := 256#32

/-- `K_MAX` (R7, 10_state.md R40): slices of the table store. -/
def Config.slices : Nat := 32

/-- Entries of one slice (10_state.md R40). -/
def Config.sliceEntries : Nat := 256

/-- The free 32-bit values of the spec, which it calls "any u32, a draw": RESULT read while BUSY = 1 (10_state.md R37),
RESULT after MEM_FAULT (60_exceptions.md R223), RESULT after a racing host store (20_memory.md R67). It has no body:
nothing in Lean knows its values. The `n`-th draw of a run is `freeWord n` (log entry 5). -/
opaque Config.freeWord : Nat → Word

end Sys2Proof
end

