-- ==== Sys2Proof/Machine/State.lean ====
section
/-! DEFINITION. The state of the core and of the three agents that move it (10_state.md R20, 40_common.md R100), as plain
data; the reasons a step stops; the state after reset (10_state.md R46). -/

namespace Sys2Proof.Machine

/-- Reasons the machine stops with a fault. There are none: 93_implementation_defined.md says that every step the spec
defines has a successor and that no `stuck` treatment is used anywhere; the core's own errors (60_exceptions.md R220) are
recorded in STATUS and the machine goes on. -/
inductive Fault where
deriving DecidableEq, Repr

/-- Reasons a step has no meaning. -/
inductive Refusal where
  /-- An instruction of the opcode table without a meaning: raised by a refused arm of `exec` only (none is left). Safe. -/
  | notModelled (mnemonic : String)
  /-- A host access to the register window that is not 32 bits wide: raised by a host read or write event; 10_state.md R22
  says a model refuses it by name. Safe. -/
  | csrAccessWidth
  /-- A host access to the register window whose offset is no multiple of 4: raised by a host read or write event;
  10_state.md R22 says a model refuses it by name. Safe. -/
  | csrAccessMisaligned
deriving DecidableEq, Repr

/-- The errors the core records (60_exceptions.md R220). -/
inductive ErrorKind where
  | illegalCmd
  | cmdWhileBusy
  | memFault
deriving DecidableEq, Repr

/-- The latched command record LAT (10_state.md R44). An operand that 30_encoding.md R88 calls unused for the command is
latched as 0; no rule reads it (log entry 7). -/
structure Latch where
  /-- The operation. -/
  op   : Op
  /-- The engine; issue never stores AUTO here (40_common.md R102). -/
  eng  : Engine
  /-- The previous register. -/
  prev : Word
  /-- The buffer address. -/
  addr : Addr
  /-- The buffer length, or the total length of FINALIZE. -/
  len  : Addr
  /-- The prefetch distance. -/
  dist : Word
deriving DecidableEq, Repr

/-- STATUS.BUSY together with LAT: 10_state.md R44 makes LAT valid exactly while BUSY = 1 and invalid after reset and
after completion, so the two are held as one (log entry 2). `raced` is the model's own note that the host wrote a byte
of the running command's buffer (20_memory.md R67), which makes that command's RESULT a draw. -/
inductive Run where
  /-- BUSY = 0, LAT invalid. -/
  | idle
  /-- BUSY = 1, LAT holds the issued command. -/
  | busy (lat : Latch) (raced : Bool)
deriving DecidableEq, Repr

/-- The fields of STATUS other than BUSY (10_state.md R25, R45). Its reserved bits have no storage. -/
structure Status where
  done  : Bool
  err   : Bool
  tbl   : Bool
  ecode : BitVec 4
deriving DecidableEq, Repr

/-- A stretch of buffer-space addresses where platform memory answers a read: a part of `Admit` (20_memory.md R61). -/
structure Region where
  base : Nat
  size : Nat
deriving DecidableEq, Repr

/-- The OPEN parameters of 00_scope.md R7 that a model takes as arguments: the bus address of the register window and
the admission predicate, written as the list of regions it admits. No step changes them (log entry 3). -/
structure Platform where
  coreBase : Nat
  allowed  : List Region
deriving DecidableEq, Repr

/-- One turn of an agent (40_common.md R100). A list of them is a schedule. Bus addresses and widths are numbers: the
spec gives the host's bus no width. -/
inductive Event where
  /-- The host reads `width` bytes at a bus address (`RD`, 30_encoding.md R91). -/
  | read (addr width : Nat)
  /-- The host writes `width` bytes, of value `value`, at a bus address (`WR`, 30_encoding.md R91). -/
  | write (addr width : Nat) (value : Word)
  /-- The host writes the value its last read returned, 32 bits wide (the second half of CHAIN, 30_encoding.md R92). -/
  | writeBack (addr : Nat)
  /-- The host polls STATUS until BUSY = 0 (WAIT, 30_encoding.md R92). -/
  | wait
  /-- The host writes one byte of platform memory (20_memory.md R60, R67), at whatever address (log entry 19). -/
  | store (addr : Addr) (value : Byte)
  /-- The core takes its step, the completion, if it is enabled (40_common.md R103). -/
  | core
  /-- The platform resets the core (70_reset_and_hazards.md R260). -/
  | reset
deriving DecidableEq, Repr

/-- Platform memory: address and byte, strictly rising, none equal to what an unlisted address reads as (`Memory.wf`). -/
abbrev Memory := List Host.Cell

/-- The table store TBLMEM as a list of slices of entries (10_state.md R40); the empty list stands for its unspecified
contents while STATUS.TBL = 0 (log entry 6). -/
abbrev TableStore := List (List Word)

/-- The state (10_state.md R20: the CSRs, TBLMEM with its flag, LAT), platform memory, the platform's parameters, the
schedule of turns still to come, and two fields of the model's own: the value the host's last read bound and the count
of free values drawn. ID, SEED and CMD have no storage (10_state.md R24, R38, R32). -/
structure State where
  /-- BUSY and LAT (10_state.md R26, R44). -/
  run      : Run
  /-- The other fields of STATUS (10_state.md R25). -/
  status   : Status
  /-- CRC_IN (10_state.md R33). -/
  crcIn    : Word
  /-- ADDR_LO (10_state.md R34). -/
  addrLo   : Word
  /-- ADDR_HI (10_state.md R34). -/
  addrHi   : Word
  /-- LEN_LO (10_state.md R35). -/
  lenLo    : Word
  /-- LEN_HI (10_state.md R35). -/
  lenHi    : Word
  /-- DIST (10_state.md R36). -/
  dist     : Word
  /-- RESULT (10_state.md R37). -/
  result   : Word
  /-- EINFO_LO (10_state.md R39). -/
  einfoLo  : Word
  /-- EINFO_HI (10_state.md R39). -/
  einfoHi  : Word
  /-- TBLMEM (10_state.md R40). -/
  tblmem   : TableStore
  /-- Platform memory, the buffer space (20_memory.md R60). -/
  mem      : Memory
  /-- CORE_BASE and Admit (00_scope.md R7). -/
  platform : Platform
  /-- The turns still to come, next first (the model's own: who moves next is data). -/
  pending  : List Event
  /-- The value the host's last read returned: the `t` or `r` of 30_encoding.md R91, R92 (the host's own variable). -/
  rdata    : Word
  /-- Free values drawn so far (the model's own). -/
  draws    : Nat
deriving DecidableEq, Repr

/-- What one step answers. -/
abbrev Res := Host.Outcome State Fault Refusal

/-- STATUS.BUSY (10_state.md R26). -/
def State.busy (s : State) : Bool :=
  match s.run with
  | .idle => false
  | .busy _ _ => true

/-- The platform that `State.reset` stands on: the register window at address 0 and every other address admitted. The
spec leaves both OPEN; DESIGN CHOICE (log entry 3), and no statement rests on it. -/
def Platform.default : Platform :=
  { coreBase := 0
    allowed := [⟨0x10000, 2 ^ 64 - 0x10000⟩] }

/-- The machine right after reset (10_state.md R46), with nothing in memory, nothing scheduled and nothing read yet. -/
def State.reset : State :=
  { run := .idle
    status := { done := false, err := false, tbl := false, ecode := 0#4 }
    crcIn := Config.seed
    addrLo := 0#32
    addrHi := 0#32
    lenLo := 0#32
    lenHi := 0#32
    dist := Config.distDefault
    result := 0#32
    einfoLo := 0#32
    einfoHi := 0#32
    tblmem := []
    mem := []
    platform := Platform.default
    pending := []
    rdata := 0#32
    draws := 0 }

end Sys2Proof.Machine
end

