-- ==== Sys2Proof/Machine/Table.lean ====
section
/-! DEFINITION. The lookup table (41_table_builder.md): the constant function `T` of R121 and R122, its image as the
contents of TBLMEM, and the read of one stored entry. -/

namespace Sys2Proof.Machine

/-- A lookup table as a function of slice and index (00_scope.md R9, `T[k][i]`). -/
abbrev TableFn := Nat → Byte → Word

/-- `POLY` (R120): x^32 implicit, most significant bit first. -/
def poly : Word := 0x04C11DB7#32

/-- One turn of the loop of R121. -/
def shiftStep (r : Word) : Word := if r.getLsbD 31 then (r <<< 1) ^^^ poly else r <<< 1

/-- Slice 0, the base table (R121). -/
def baseEntry (i : Byte) : Word := shiftStep^[8] (i.setWidth 32 <<< 24)

/-- The top byte of a remainder, `c >> 24` (40_common.md R107). -/
def topByte (r : Word) : Byte := r.extractLsb' 24 8

/-- The base table's transform once more: one zero byte (R122). -/
def zeroStep (r : Word) : Word := (r <<< 8) ^^^ baseEntry (topByte r)

/-- `T[k][i]` (R121, R122). -/
def T : TableFn
  | 0, i => baseEntry i
  | k + 1, i => zeroStep (T k i)

/-- The built contents of one slice, entries in index order. -/
def sliceImage (k : Nat) : List Word := (List.range Config.sliceEntries).map fun i => T k (BitVec.ofNat 8 i)

/-- The built contents of TBLMEM (10_state.md R40), slices in order 0..31 (R125). -/
def tableImage : TableStore := (List.range Config.slices).map sliceImage

/-- Entry `i` of slice `k` of a table store. -/
def TableStore.entry (m : TableStore) (k : Nat) (i : Byte) : Word := (m.getD k []).getD i.toNat 0#32

end Sys2Proof.Machine
end

