-- ==== Sys2Proof/Machine/Ops.lean ====
section
/-! DEFINITION. The named operations over memory and registers: one byte of memory read and written, the admission check
and the buffer read (40_common.md R109), recording an error and clearing it (60_exceptions.md R224, R228), the lazy table
build (R105), and the two steps every command has, issue and completion (R101, R103). -/

namespace Sys2Proof.Machine

/-- What an address that memory does not list reads as. 95_test_vectors.md section 3: "Memory not listed is 0x00"; the
rules themselves leave it open (log entry 4). -/
def Memory.unlisted : Byte := 0#8

/-- The byte at an address (20_memory.md R65, `MemRead(a, 1)`). -/
def Memory.read : Memory → Nat → Byte
  | [], _ => Memory.unlisted
  | (a, b) :: m, x => if x = a then b else Memory.read m x

/-- Memory after a byte is stored; keeps the canonical form. -/
def Memory.write : Memory → Nat → Byte → Memory
  | [], x, v => if v = Memory.unlisted then [] else [(x, v)]
  | (a, b) :: m, x, v =>
    if x < a then (if v = Memory.unlisted then (a, b) :: m else (x, v) :: (a, b) :: m)
    else if x = a then (if v = Memory.unlisted then m else (a, v) :: m)
    else (a, b) :: Memory.write m x v

/-- The canonical form: 64-bit addresses strictly rising, no entry equal to what an unlisted address reads as. -/
def Memory.wf : Memory → Bool
  | [] => true
  | (a, b) :: m => decide (a < 2 ^ 64) && b != Memory.unlisted && m.all (fun c => decide (a < c.1)) && Memory.wf m

/-- An address lies in a region. -/
def Region.holds (r : Region) (a : Nat) : Bool := decide (r.base ≤ a) && decide (a < r.base + r.size)

/-- `Admit` (20_memory.md R61): an integer address of 2^64 or above is never admitted. -/
def Platform.admits (p : Platform) (a : Nat) : Bool := decide (a < 2 ^ 64) && p.allowed.any (·.holds a)

/-- The lowest address of `[a, a + n)` that is not admitted (R109, the ascending scan). -/
def Platform.firstUnadmitted (p : Platform) (a : Nat) : Nat → Option Nat
  | 0 => none
  | n + 1 => if p.admits a then Platform.firstUnadmitted p (a + 1) n else some a

/-- The `n` bytes from address `a` on, in address order (20_memory.md R62). -/
def Memory.readBytes (m : Memory) (a : Nat) : Nat → List Byte
  | 0 => []
  | n + 1 => m.read a :: Memory.readBytes m (a + 1) n

/-- What a buffer read answers (R109). -/
inductive BufRead where
  | bytes (b : List Byte)
  | memFault (a : Addr)
deriving DecidableEq, Repr

/-- `ReadBuf` (R109): the whole range is checked before anything is read; a fault address is recorded mod 2^64. -/
def readBuf (p : Platform) (m : Memory) (addr n : Addr) : BufRead :=
  match p.firstUnadmitted addr.toNat n.toNat with
  | some a => .memFault (BitVec.ofNat 64 a)
  | none => .bytes (m.readBytes addr.toNat n.toNat)

/-- The ECODE of an error (60_exceptions.md R220, 10_state.md R30). -/
def ErrorKind.code : ErrorKind → BitVec 4
  | .illegalCmd => 1#4
  | .cmdWhileBusy => 2#4
  | .memFault => 3#4

/-- `raise E(info)` (60_exceptions.md R224, R227), the core's whole form of trap entry: the first error since the last
clear is recorded, a later one is dropped. -/
def State.raise (s : State) (e : ErrorKind) (info : Addr) : State :=
  if s.status.err then s
  else { s with
    status := { s.status with err := true, ecode := e.code }
    einfoLo := loHalf info
    einfoHi := hiHalf info }

/-- The return from the error state (60_exceptions.md R228, 10_state.md R31): ERR, ECODE and EINFO are cleared. -/
def State.clearError (s : State) : State :=
  { s with
    status := { s.status with err := false, ecode := 0#4 }
    einfoLo := 0#32
    einfoHi := 0#32 }

/-- DONE is cleared (10_state.md R27, R31). -/
def State.clearDone (s : State) : State := { s with status := { s.status with done := false } }

/-- RESULT takes a value (R103). -/
def State.setResult (s : State) (v : Word) : State := { s with result := v }

/-- RESULT takes a free value, "any u32, a draw" (R103; 60_exceptions.md R223, 20_memory.md R67). -/
def State.drawResult (s : State) : State :=
  { s with
    result := Config.freeWord s.draws
    draws := s.draws + 1 }

/-- `BuildTable` (41_table_builder.md R125): built once, never rebuilt (R126). -/
def State.buildTable (s : State) : State :=
  if s.status.tbl then s
  else { s with
    tblmem := tableImage
    status := { s.status with tbl := true } }

/-- `T[k][i]` as the engines read it: from TBLMEM (10_state.md R40). -/
def State.table (s : State) : TableFn := fun k i => s.tblmem.entry k i

/-- The last three lines of `Issue` (R101): a command is accepted. -/
def State.accept (s : State) (lat : Latch) : State :=
  { s with
    run := .busy lat false
    status := { s.status with done := false } }

/-- The last three lines of `Complete` (R103): BUSY cleared, DONE set, LAT invalid. -/
def State.retire (s : State) : State :=
  { s with
    run := .idle
    status := { s.status with done := true } }

/-- What a command comes to (R103, `outcome`). -/
inductive CmdOutcome where
  | value (r : Word)
  | memFault (a : Addr)
  | noResult
deriving DecidableEq, Repr

/-- The writes of `Complete` (R103) for an outcome. A command whose buffer the host wrote while it ran gives a draw in
place of its value (20_memory.md R67). -/
def State.finish (s : State) (raced : Bool) : CmdOutcome → State
  | .value r => (if raced then s.drawResult else s.setResult r).retire
  | .memFault a => ((s.raise .memFault a).drawResult).retire
  | .noResult => s.retire

/-- The two steps of a command (R100). While the core is idle this is the accepting part of its issue step (R101): the
operands are latched. While the core is busy this is its completion step (R103): the table is built if need be, then the
command runs on LAT alone (R102). -/
def State.command (s : State) (latch : State → Latch) (outcome : State → Latch → CmdOutcome) : Res :=
  match s.run with
  | .idle => .next (s.accept (latch s))
  | .busy lat raced => .next (s.buildTable.finish raced (outcome s.buildTable lat))

end Sys2Proof.Machine
end

