-- ==== Sys2Proof/Machine/Flags.lean ====
section
/-! DEFINITION. The status flags (10_state.md R25 to R31, R45): the STATUS word as the host reads it and the effect of a
host write of it. No command result sets a flag; BUSY, DONE, TBL and the error fields change in Machine/Ops.lean only. -/

namespace Sys2Proof.Machine

/-- A flag as a 32-bit value, 0 or 1. -/
def flagWord (b : Bool) : Word := if b then 1#32 else 0#32

/-- The STATUS word a host read returns (10_state.md R31); every reserved bit is 0. -/
def State.statusWord (s : State) : Word :=
  (s.status.ecode.setWidth 32 <<< 8) ||| (flagWord s.status.tbl <<< 3) ||| (flagWord s.status.err <<< 2) |||
    (flagWord s.status.done <<< 1) ||| flagWord s.busy

/-- A host write of STATUS (10_state.md R31): bit 1 clears DONE, bit 2 clears ERR, ECODE and EINFO; every other bit is
ignored. -/
def State.writeStatus (s : State) (v : Word) : State :=
  let t := if v.getLsbD 1 then s.clearDone else s
  if v.getLsbD 2 then t.clearError else t

end Sys2Proof.Machine
end

