-- ==== Sys2Proof/WellFormed.lean ====
section
/-! DEFINITION. Which command words are legal (30_encoding.md R80 to R86, R90): the rows of R86 as mask and pattern,
and the same condition as one named check per reason of R90 over the fields of a word. Nothing here is used by the
decoder, which follows R87, so the two readings can be held against each other. -/

namespace Sys2Proof

/-- The fields of a command word (R80). -/
structure Fields where
  op    : BitVec 4
  eng   : BitVec 4
  seed  : Bool
  ddist : Bool
  rsv   : BitVec 22
deriving DecidableEq, Repr

/-- The fields of a word, by the bit positions of R80. -/
def Fields.ofWord (w : Word) : Fields :=
  { op := w.extractLsb' 0 4
    eng := w.extractLsb' 4 4
    seed := w.getLsbD 8
    ddist := w.getLsbD 9
    rsv := w.extractLsb' 10 22 }

/-- R85: every legal command has bits 31:10 zero. -/
def Fields.rsvClear (f : Fields) : Bool := f.rsv == 0#22

/-- R81: OP is one of 1 to 4. -/
def Fields.opKnown (f : Fields) : Bool := f.op == 1#4 || f.op == 2#4 || f.op == 3#4 || f.op == 4#4

/-- R82: ENG is one of 0 to 5. -/
def Fields.engKnown (f : Fields) : Bool := f.eng.ule 5#4

/-- R90: ENG is 0 on BUILD and on FINALIZE. -/
def Fields.engAllowed (f : Fields) : Bool := (f.op != 1#4 && f.op != 4#4) || f.eng == 0#4

/-- R83: S is legal on PARTIAL and FINALIZE only. -/
def Fields.seedAllowed (f : Fields) : Bool := !f.seed || f.op == 2#4 || f.op == 4#4

/-- R84: D is legal only where the engine prefetches (AUTO, S16PF, S32PF) and the operation is PARTIAL or FULL. -/
def Fields.ddistAllowed (f : Fields) : Bool :=
  !f.ddist || ((f.op == 2#4 || f.op == 3#4) && (f.eng == 0#4 || f.eng == 3#4 || f.eng == 5#4))

/-- A word's fields break no condition of R90. -/
def Fields.wellFormed (f : Fields) : Bool :=
  f.rsvClear && f.opKnown && f.engKnown && f.engAllowed && f.seedAllowed && f.ddistAllowed

/-- A row of the opcode map (R86): a word `w` matches when `w & mask = pattern`. -/
structure OpcodeRow where
  mnemonic : String
  pattern  : Word
  mask     : Word
deriving DecidableEq, Repr

/-- The opcode map of R86, in its order. -/
def opcodeRows : List OpcodeRow :=
  [ ⟨"BUILD", 0x00000001#32, 0xFFFFFFFF#32⟩,
    ⟨"PARTIAL.AUTO", 0x00000002#32, 0xFFFFFCFF#32⟩,
    ⟨"PARTIAL.SCALAR", 0x00000012#32, 0xFFFFFEFF#32⟩,
    ⟨"PARTIAL.S16", 0x00000022#32, 0xFFFFFEFF#32⟩,
    ⟨"PARTIAL.S16PF", 0x00000032#32, 0xFFFFFCFF#32⟩,
    ⟨"PARTIAL.S32", 0x00000042#32, 0xFFFFFEFF#32⟩,
    ⟨"PARTIAL.S32PF", 0x00000052#32, 0xFFFFFCFF#32⟩ ] ++
  [ ⟨"FULL.AUTO", 0x00000003#32, 0xFFFFFDFF#32⟩,
    ⟨"FULL.SCALAR", 0x00000013#32, 0xFFFFFFFF#32⟩,
    ⟨"FULL.S16", 0x00000023#32, 0xFFFFFFFF#32⟩,
    ⟨"FULL.S16PF", 0x00000033#32, 0xFFFFFDFF#32⟩,
    ⟨"FULL.S32", 0x00000043#32, 0xFFFFFFFF#32⟩,
    ⟨"FULL.S32PF", 0x00000053#32, 0xFFFFFDFF#32⟩,
    ⟨"FINALIZE", 0x00000004#32, 0xFFFFFEFF#32⟩ ]

/-- A word matches a row (R86). -/
def OpcodeRow.matchesWord (r : OpcodeRow) (w : Word) : Bool := w &&& r.mask == r.pattern

/-- A word is one of the legal command words of R86. -/
def legalWord (w : Word) : Bool := opcodeRows.any (·.matchesWord w)

/-- The fields a command's word has (R81, R82 codes). -/
def Instr.fields (i : Instr) : Fields :=
  { op := match i.op with
      | .buildOp => 1#4
      | .partialOp => 2#4
      | .fullOp => 3#4
      | .finalizeOp => 4#4
    eng := match i.engine with
      | .auto => 0#4
      | .scalar => 1#4
      | .s16 => 2#4
      | .s16pf => 3#4
      | .s32 => 4#4
      | .s32pf => 5#4
    seed := i.seedBit
    ddist := i.ddistBit
    rsv := 0#22 }

/-- A command is well formed when its fields are. The types of `Instr` already shut out every ill-formed one (a command
has an S or a D argument only where its row leaves the bit free), so the check can fail on raw fields only. -/
def Instr.wellFormed (i : Instr) : Bool := i.fields.wellFormed

end Sys2Proof
end

