-- ==== Sys2Proof/Decode.lean ====
section
/-! DEFINITION. Decoding a command word (30_encoding.md R87), total on every word and every byte string, each rejection
by name; and the encoder, written from the field layout R80 and the codes of R81 and R82. -/

namespace Sys2Proof

/-- Why a word is no command (30_encoding.md R87, R90). The names are the model's; the core tells no reason apart, every
one of them raises ILLEGAL_CMD (60_exceptions.md R221). -/
inductive Illegal where
  /-- A bit of 31:10 is set (R85). -/
  | reservedBits
  /-- ENG is 6 to 15 (R82). -/
  | engineCode
  /-- OP is 0 or 5 to 15 (R81). -/
  | operationCode
  /-- BUILD with ENG, S or D not 0. -/
  | buildOperands
  /-- PARTIAL with D on an engine that does not prefetch. -/
  | partialDistance
  /-- FULL with S, or with D on an engine that does not prefetch. -/
  | fullOperands
  /-- FINALIZE with ENG or D not 0. -/
  | finalizeOperands
  /-- Not the four bytes of one CMD write (R89). -/
  | notOneWord
deriving DecidableEq, Repr

/-- What decoding answers. -/
inductive Decoded where
  | cmd (i : Instr)
  | illegal (why : Illegal)
deriving DecidableEq, Repr

/-- The command, if there is one. -/
def Decoded.toOption : Decoded → Option Instr
  | .cmd i => some i
  | .illegal _ => none

/-- Bits 3:0, the OP field (R80). -/
def opField (w : Word) : Nat := (w.extractLsb' 0 4).toNat

/-- Bits 7:4, the ENG field (R80). -/
def engField (w : Word) : Nat := (w.extractLsb' 4 4).toNat

/-- The engine of an ENG code (R82). -/
def engineOfCode : Nat → Option Engine
  | 0 => some .auto
  | 1 => some .scalar
  | 2 => some .s16
  | 3 => some .s16pf
  | 4 => some .s32
  | 5 => some .s32pf
  | _ => none

/-- The engine issues prefetch hints (R82; AUTO is its engine S16PF, R84). -/
def Engine.prefetches : Engine → Bool
  | .auto => true
  | .scalar => false
  | .s16 => false
  | .s16pf => true
  | .s32 => false
  | .s32pf => true

/-- The PARTIAL command of an engine (R87). -/
def partialOf (e : Engine) (seed ddist : Bool) : Instr :=
  match e with
  | .auto => .partialAuto seed ddist
  | .scalar => .partialScalar seed
  | .s16 => .partialS16 seed
  | .s16pf => .partialS16pf seed ddist
  | .s32 => .partialS32 seed
  | .s32pf => .partialS32pf seed ddist

/-- The FULL command of an engine (R87). -/
def fullOf (e : Engine) (ddist : Bool) : Instr :=
  match e with
  | .auto => .fullAuto ddist
  | .scalar => .fullScalar
  | .s16 => .fullS16
  | .s16pf => .fullS16pf ddist
  | .s32 => .fullS32
  | .s32pf => .fullS32pf ddist

/-- The last step of R87: the operation and engine are known, the operand bits are checked. -/
def decodeOp (op : Nat) (e : Engine) (seed ddist : Bool) : Decoded :=
  match op with
  | 1 => if e = .auto ∧ seed = false ∧ ddist = false then .cmd .build else .illegal .buildOperands
  | 2 => if ddist = false ∨ e.prefetches = true then .cmd (partialOf e seed ddist) else .illegal .partialDistance
  | 3 =>
    if seed = false ∧ (ddist = false ∨ e.prefetches = true) then .cmd (fullOf e ddist)
    else .illegal .fullOperands
  | 4 => if e = .auto ∧ ddist = false then .cmd (.finalize seed) else .illegal .finalizeOperands
  | _ => .illegal .operationCode

/-- `decode` of R87, total on every 32-bit word. -/
def decode (w : Word) : Decoded :=
  if w.extractLsb' 10 22 = 0#22 then
    match engineOfCode (engField w) with
    | some e => decodeOp (opField w) e (w.getLsbD 8) (w.getLsbD 9)
    | none => .illegal .engineCode
  else .illegal .reservedBits

/-- The word that four bytes make on a byte-addressed bus: the byte at offset `n` is bits `8n+7 : 8n` (20_memory.md R63). -/
def wordOfLanes (b0 b1 b2 b3 : Byte) : Word := b3 ++ b2 ++ b1 ++ b0

/-- Decoding the bytes of one CMD write. A command has no other length (R80, R89), so anything but four bytes is
rejected by name. -/
def decodeBytes : List Byte → Decoded
  | [b0, b1, b2, b3] => decode (wordOfLanes b0 b1 b2 b3)
  | _ => .illegal .notOneWord

/-- The OP code of an operation (R81). -/
def opCode : Op → BitVec 4
  | .buildOp => 1#4
  | .partialOp => 2#4
  | .fullOp => 3#4
  | .finalizeOp => 4#4

/-- The ENG code of an engine (R82). -/
def engCode : Engine → BitVec 4
  | .auto => 0#4
  | .scalar => 1#4
  | .s16 => 2#4
  | .s16pf => 3#4
  | .s32 => 4#4
  | .s32pf => 5#4

/-- The word of the five fields of R80, reserved bits first. -/
def packFields (rsv : BitVec 22) (ddist seed : Bool) (eng op : BitVec 4) : Word :=
  rsv ++ BitVec.ofBool ddist ++ BitVec.ofBool seed ++ eng ++ op

/-- The command word of a command (R80 to R86). -/
def encode (i : Instr) : Word := packFields 0#22 i.ddistBit i.seedBit (engCode i.engine) (opCode i.op)

/-- The four bytes of a command's CMD write, lowest address first (20_memory.md R63). -/
def encodeBytes (i : Instr) : List Byte :=
  [ (encode i).extractLsb' 0 8, (encode i).extractLsb' 8 8, (encode i).extractLsb' 16 8, (encode i).extractLsb' 24 8 ]

/-- What the decoder reads from an instruction of the opcode table whose bits are `w`. Every row is one 32-bit word;
bits above `nbits` are 0. -/
def decodeTableWord (nbits w : Nat) : Option Instr :=
  let v : Word := BitVec.ofNat 32 (w % 2 ^ nbits)
  if nbits ≤ 32 then
    (decodeBytes [v.extractLsb' 0 8, v.extractLsb' 8 8, v.extractLsb' 16 8, v.extractLsb' 24 8]).toOption
  else none

end Sys2Proof
end

