-- ==== Sys2Proof/Machine/Operands.lean ====
section
/-! DEFINITION. The operand forms of the commands: the latch table of 30_encoding.md R88 (40_common.md R102), the engine
AUTO resolves to (R193), and what a latched record stands for at completion. -/

namespace Sys2Proof.Machine

/-- The previous register, `S ? SEED : CRC_IN` (R83, R88). -/
def State.previous (s : State) (seed : Bool) : Word := if seed then Config.seed else s.crcIn

/-- `ADDR = {ADDR_HI, ADDR_LO}` (10_state.md R34). -/
def State.addr (s : State) : Addr := join s.addrHi s.addrLo

/-- `LEN = {LEN_HI, LEN_LO}` (10_state.md R35). -/
def State.len (s : State) : Addr := join s.lenHi s.lenLo

/-- The prefetch distance, `D ? 256 : DIST`, for a prefetching engine (43_slice_engines.md R168); unused otherwise. -/
def State.distance (s : State) (e : Engine) (ddist : Bool) : Word :=
  if e.prefetches then (if ddist then Config.distDefault else s.dist) else 0#32

/-- The engine issue stores: `AUTO_ENGINE` for AUTO (40_common.md R102, 44_finalize_dispatch.md R193). -/
def resolveEngine : Engine → Engine
  | .auto => Config.autoEngine
  | .scalar => .scalar
  | .s16 => .s16
  | .s16pf => .s16pf
  | .s32 => .s32
  | .s32pf => .s32pf

/-- `Latch` of BUILD: no operand (R88). -/
def latchBuild (_ : State) : Latch :=
  { op := .buildOp, eng := resolveEngine .auto, prev := 0#32, addr := 0#64, len := 0#64, dist := 0#32 }

/-- `Latch` of PARTIAL.e (R88). -/
def latchPartial (e : Engine) (seed ddist : Bool) (s : State) : Latch :=
  { op := .partialOp, eng := resolveEngine e, prev := s.previous seed, addr := s.addr, len := s.len,
    dist := s.distance e ddist }

/-- `Latch` of FULL.e (R88): the previous register is SEED. -/
def latchFull (e : Engine) (ddist : Bool) (s : State) : Latch :=
  { op := .fullOp, eng := resolveEngine e, prev := Config.seed, addr := s.addr, len := s.len,
    dist := s.distance e ddist }

/-- `Latch` of FINALIZE: LEN is the total length, ADDR and DIST are unused (R88). -/
def latchFinalize (seed : Bool) (s : State) : Latch :=
  { op := .finalizeOp, eng := resolveEngine .auto, prev := s.previous seed, addr := 0#64, len := s.len,
    dist := 0#32 }

/-- The command a latched record completes as: its operation with its engine (R103, `case LAT.op of`). LAT keeps no S
or D bit; their effect is in the latched operands. -/
def Latch.command (l : Latch) : Instr :=
  match l.op with
  | .buildOp => .build
  | .partialOp => partialOf l.eng false false
  | .fullOp => fullOf l.eng false
  | .finalizeOp => .finalize false

/-- The command reads a buffer: PARTIAL and FULL (R88). -/
def Latch.readsBuffer (l : Latch) : Bool :=
  match l.op with
  | .buildOp => false
  | .partialOp => true
  | .fullOp => true
  | .finalizeOp => false

/-- An address lies in the running command's buffer `[LAT.addr, LAT.addr + LAT.len)` (20_memory.md R67). -/
def Latch.bufferHolds (l : Latch) (a : Addr) : Bool :=
  l.readsBuffer && decide (l.addr.toNat ≤ a.toNat) && decide (a.toNat < l.addr.toNat + l.len.toNat)

end Sys2Proof.Machine
end

