-- ==== Sys2Proof/Machine/Csr.lean ====
section
/-! DEFINITION. The register window (10_state.md R21 to R41): which register an offset names, what a host read returns,
and what a host write does to every register but CMD, whose write is the issue step (Machine/Agents.lean). -/

namespace Sys2Proof.Machine

/-- The window is 0x10000 bytes long (R21). -/
def windowSize : Nat := 0x10000

/-- The registers of the window (R21). -/
inductive Csr where
  | id
  | status
  | cmd
  | crcIn
  | addrLo
  | addrHi
  | lenLo
  | lenHi
  | dist
  | result
  | seed
  | einfoLo
  | einfoHi
  | reserved
  | table (slice : Nat) (index : Byte)
deriving DecidableEq, Repr

/-- The entry of the table window at an offset: `0x8000 + 4 * (256 * k + i)` is `T[k][i]` (R41). -/
def tableCsr (off : Nat) : Csr := .table ((off - 0x8000) / 4 / 256) (BitVec.ofNat 8 ((off - 0x8000) / 4 % 256))

/-- The register at a word offset below the table window (R21). -/
def lowCsr : Nat → Csr
  | 0x00 => .id
  | 0x04 => .status
  | 0x08 => .cmd
  | 0x0C => .crcIn
  | 0x10 => .addrLo
  | 0x14 => .addrHi
  | 0x18 => .lenLo
  | 0x1C => .lenHi
  | 0x20 => .dist
  | 0x24 => .result
  | 0x28 => .seed
  | 0x2C => .einfoLo
  | 0x30 => .einfoHi
  | _ => .reserved

/-- The register at a word offset below 0x10000 (R21). -/
def csrAt (off : Nat) : Csr := if 0x8000 ≤ off then tableCsr off else lowCsr off

/-- The offset of CMD (R21). -/
def cmdOffset : Nat := 0x08

/-- The constant ID reads (R24). -/
def idValue : Word := 0x43524320#32

/-- The value a host read of a register returns, except RESULT while BUSY = 1 (R24, R31, R32 to R39, R23, R41). -/
def State.csrValue (s : State) : Csr → Word
  | .id => idValue
  | .status => s.statusWord
  | .cmd => 0#32
  | .crcIn => s.crcIn
  | .addrLo => s.addrLo
  | .addrHi => s.addrHi
  | .lenLo => s.lenLo
  | .lenHi => s.lenHi
  | .dist => s.dist
  | .result => s.result
  | .seed => Config.seed
  | .einfoLo => s.einfoLo
  | .einfoHi => s.einfoHi
  | .reserved => 0#32
  | .table k i => if s.status.tbl then s.tblmem.entry k i else 0#32

/-- The host's read returned a value (30_encoding.md R91, `RD`). -/
def State.bind (s : State) (v : Word) : State := { s with rdata := v }

/-- The host's read returned a free value (70_reset_and_hazards.md R263). -/
def State.bindDraw (s : State) : State :=
  { s with
    rdata := Config.freeWord s.draws
    draws := s.draws + 1 }

/-- A host read of a register. It changes no state of the core (20_memory.md R66); RESULT read while BUSY = 1 returns a
draw (10_state.md R37). -/
def State.readCsr (s : State) (r : Csr) : State :=
  if r = .result ∧ s.busy = true then s.bindDraw else s.bind (s.csrValue r)

/-- A host write of a register other than CMD: the argument registers take the value at once, busy or not
(70_reset_and_hazards.md R266), STATUS follows R31, and every other register ignores it (R23). -/
def State.writeCsr (s : State) (r : Csr) (v : Word) : State :=
  match r with
  | .id => s
  | .status => s.writeStatus v
  | .cmd => s
  | .crcIn => { s with crcIn := v }
  | .addrLo => { s with addrLo := v }
  | .addrHi => { s with addrHi := v }
  | .lenLo => { s with lenLo := v }
  | .lenHi => { s with lenHi := v }
  | .dist => { s with dist := v }
  | .result => s
  | .seed => s
  | .einfoLo => s
  | .einfoHi => s
  | .reserved => s
  | .table _ _ => s

/-- What a host access of `width` bytes at a bus address is to the core (10_state.md R21, R22). -/
inductive Reach where
  /-- No byte of it lies in the register window: it is no access to the core. -/
  | elsewhere
  | badWidth
  | misaligned
  | csr (off : Nat)
deriving DecidableEq, Repr

/-- The core's answer to where an access goes: only an aligned 32-bit access to the window is admitted (R22). -/
def Platform.reach (p : Platform) (addr width : Nat) : Reach :=
  if addr + width ≤ p.coreBase ∨ p.coreBase + windowSize ≤ addr then .elsewhere
  else if width ≠ 4 then .badWidth
  else if addr < p.coreBase ∨ (addr - p.coreBase) % 4 ≠ 0 then .misaligned
  else .csr (addr - p.coreBase)

end Sys2Proof.Machine
end

