-- ==== Sys2Proof/Machine/Fold.lean ====
section
/-! DEFINITION. The byte fold (40_common.md R107, R108), the sliced folds (43_slice_engines.md R160, R161), the length
fold (44_finalize_dispatch.md R190) and the engine template (40_common.md R110), over any lookup table; and the addresses
of the prefetch hints, which have no effect (43_slice_engines.md R163). -/

namespace Sys2Proof.Machine

/-- The one-byte update `step` (R107). -/
def stepByte (t : TableFn) (c : Word) (b : Byte) : Word := (c <<< 8) ^^^ t 0 (topByte c ^^^ b)

/-- The sequence fold, strict left to right (R108). -/
def foldBytes (t : TableFn) (c : Word) (bs : List Byte) : Word := bs.foldl (stepByte t) c

/-- Byte `j` of the remainder as lane `j` takes it: `c[31-8j : 24-8j]` for lanes 0..3, nothing for the others (R160). -/
def laneByte (c : Word) (j : Nat) : Byte :=
  match j with
  | 0 => c.extractLsb' 24 8
  | 1 => c.extractLsb' 16 8
  | 2 => c.extractLsb' 8 8
  | 3 => c.extractLsb' 0 8
  | _ => 0#8

/-- The lanes of a group: each group byte with the remainder's byte of its lane, from lane `j` on (R160, `h`). -/
def laneBytes (c : Word) : Nat → List Byte → List Byte
  | _, [] => []
  | j, b :: bs => (b ^^^ laneByte c j) :: laneBytes c (j + 1) bs

/-- The exclusive-or of the lookups of `k` lanes: the first of them looks up slice `k - 1`, the last slice 0 (R160). -/
def sumLanes (t : TableFn) : Nat → List Byte → Word
  | k, h :: hs => t (k - 1) h ^^^ sumLanes t (k - 1) hs
  | _, [] => 0#32

/-- `GroupStep_K` (R160). -/
def groupStep (t : TableFn) (k : Nat) (c : Word) (g : List Byte) : Word := sumLanes t k (laneBytes c 0 g)

/-- The fold of `n` whole groups of `k` bytes, then of the tail (R161). -/
def foldGroups (t : TableFn) (k : Nat) : Nat → Word → List Byte → Word
  | 0, c, bs => foldBytes t c bs
  | n + 1, c, bs => foldGroups t k n (groupStep t k c (bs.take k)) (bs.drop k)

/-- `SliceFold_K` (R161): `floor(n / K)` groups in ascending order, then the tail. A hint has no effect, so the fold is
the same with and without prefetch (R163). -/
def sliceFold (t : TableFn) (k : Nat) (c : Word) (bs : List Byte) : Word := foldGroups t k (bs.length / k) c bs

/-- `Fold_e` (42_scalar_engine.md R140, 43_slice_engines.md R161); AUTO folds as its engine AUTO_ENGINE
(44_finalize_dispatch.md R193), which is one of the five others. -/
def foldEngine (t : TableFn) (e : Engine) (c : Word) (bs : List Byte) : Word :=
  match resolveEngine e with
  | .auto => foldBytes t c bs
  | .scalar => foldBytes t c bs
  | .s16 => sliceFold t 16 c bs
  | .s16pf => sliceFold t 16 c bs
  | .s32 => sliceFold t 32 c bs
  | .s32pf => sliceFold t 32 c bs

/-- The loop of `Finalize` (R190), with at most `fuel` turns; eight turns use up a 64-bit length. -/
def foldLength (t : TableFn) : Nat → Word → Addr → Word
  | 0, c, _ => c
  | fuel + 1, c, n => if n = 0#64 then c else foldLength t fuel (stepByte t c (n.extractLsb' 0 8)) (n >>> 8)

/-- `Finalize` (R190): the length folded low byte first, then the complement. -/
def finalizeWord (t : TableFn) (len : Addr) (prev : Word) : Word := ~~~ foldLength t 8 (~~~ prev) len

/-- `PartialE` (R110) in a state: platform memory and its admission, the table store, the given operands. -/
def State.partialE (s : State) (e : Engine) (prev : Word) (addr len : Addr) : CmdOutcome :=
  match readBuf s.platform s.mem addr len with
  | .memFault a => .memFault a
  | .bytes bs => .value (~~~ foldEngine s.table e (~~~ prev) bs)

/-- `FullE` (44_finalize_dispatch.md R192): a partial fold from SEED, then the length fold of the same length. -/
def State.fullE (s : State) (e : Engine) (addr len : Addr) : CmdOutcome :=
  match s.partialE e Config.seed addr len with
  | .value r => .value (finalizeWord s.table len r)
  | .memFault a => .memFault a
  | .noResult => .noResult

/-- The group width of an engine that has groups (30_encoding.md R82). -/
def groupWidth : Engine → Nat
  | .auto => 16
  | .scalar => 1
  | .s16 => 16
  | .s16pf => 16
  | .s32 => 32
  | .s32pf => 32

/-- `Prefetch` address of group `q`: the group's start plus the distance, modulo 2^64 (43_slice_engines.md R161, R163). -/
def hintAddr (addr : Addr) (k q : Nat) (dist : Word) : Addr := addr + BitVec.ofNat 64 (k * q) + dist.setWidth 64

/-- The hint addresses a latched command issues, one per whole group (43_slice_engines.md R163). No state records a hint
and nothing in the machine reads this list. -/
def Latch.hints (l : Latch) : List Addr :=
  if l.readsBuffer && l.eng.prefetches then
    (List.range (l.len.toNat / groupWidth l.eng)).map fun q => hintAddr l.addr (groupWidth l.eng) q l.dist
  else []

end Sys2Proof.Machine
end

