-- ==== Sys2Proof/Machine/Build.lean ====
section
/-! DEFINITION. BUILD (41_table_builder.md). -/

namespace Sys2Proof.Machine

/-- BUILD (R125): no operand; its completion builds the table, by the lazy check every completion makes (R105), and
does not write RESULT. -/
def execBuild (s : State) : Res := s.command latchBuild fun _ _ => .noResult

end Sys2Proof.Machine
end

