-- ==== Sys2Proof/Machine/Finalize.lean ====
section
/-! DEFINITION. FINALIZE (44_finalize_dispatch.md R190, R191). -/

namespace Sys2Proof.Machine

/-- FINALIZE (R191): the total length LEN folded into the previous register. It reads no memory, so it cannot fault. -/
def execFinalize (seed : Bool) (s : State) : Res :=
  s.command (latchFinalize seed) fun t l => .value (finalizeWord t.table l.len l.prev)

end Sys2Proof.Machine
end

