-- ==== Sys2Proof/Machine/Full.lean ====
section
/-! DEFINITION. The FULL commands (44_finalize_dispatch.md R192, R195 to R200): a partial fold from SEED over the latched
buffer, then the length fold of the same length. A command that faults performs no length fold. -/

namespace Sys2Proof.Machine

/-- FULL.AUTO (R200: the dispatcher's `full`, run by AUTO_ENGINE). -/
def execFullAuto (ddist : Bool) (s : State) : Res :=
  s.command (latchFull .auto ddist) fun t l => t.fullE .auto l.addr l.len

/-- FULL.SCALAR (R195). -/
def execFullScalar (s : State) : Res :=
  s.command (latchFull .scalar false) fun t l => t.fullE .scalar l.addr l.len

/-- FULL.S16 (R196). -/
def execFullS16 (s : State) : Res :=
  s.command (latchFull .s16 false) fun t l => t.fullE .s16 l.addr l.len

/-- FULL.S16PF (R197). -/
def execFullS16pf (ddist : Bool) (s : State) : Res :=
  s.command (latchFull .s16pf ddist) fun t l => t.fullE .s16pf l.addr l.len

/-- FULL.S32 (R198). -/
def execFullS32 (s : State) : Res :=
  s.command (latchFull .s32 false) fun t l => t.fullE .s32 l.addr l.len

/-- FULL.S32PF (R199). -/
def execFullS32pf (ddist : Bool) (s : State) : Res :=
  s.command (latchFull .s32pf ddist) fun t l => t.fullE .s32pf l.addr l.len

end Sys2Proof.Machine
end

