-- ==== Sys2Proof/Machine/Partial.lean ====
section
/-! DEFINITION. The PARTIAL commands: 42_scalar_engine.md, 43_slice_engines.md and PARTIAL.AUTO of
44_finalize_dispatch.md. Each latches `prev`, `addr`, `len` and, on a prefetching engine, `dist` (30_encoding.md R88), and
completes as `PartialE` of its engine on the latched operands (40_common.md R110). -/

namespace Sys2Proof.Machine

/-- PARTIAL.AUTO (44_finalize_dispatch.md R194: the dispatcher's `partial`, run by AUTO_ENGINE). -/
def execPartialAuto (seed ddist : Bool) (s : State) : Res :=
  s.command (latchPartial .auto seed ddist) fun t l => t.partialE .auto l.prev l.addr l.len

/-- PARTIAL.SCALAR (42_scalar_engine.md R140: one byte at a time). -/
def execPartialScalar (seed : Bool) (s : State) : Res :=
  s.command (latchPartial .scalar seed false) fun t l => t.partialE .scalar l.prev l.addr l.len

/-- PARTIAL.S16 (43_slice_engines.md R164: 16 bytes per step, then the tail). -/
def execPartialS16 (seed : Bool) (s : State) : Res :=
  s.command (latchPartial .s16 seed false) fun t l => t.partialE .s16 l.prev l.addr l.len

/-- PARTIAL.S16PF (43_slice_engines.md R165: as PARTIAL.S16; its prefetch hints have no effect, R163). -/
def execPartialS16pf (seed ddist : Bool) (s : State) : Res :=
  s.command (latchPartial .s16pf seed ddist) fun t l => t.partialE .s16pf l.prev l.addr l.len

/-- PARTIAL.S32 (43_slice_engines.md R166: 32 bytes per step, then the tail). -/
def execPartialS32 (seed : Bool) (s : State) : Res :=
  s.command (latchPartial .s32 seed false) fun t l => t.partialE .s32 l.prev l.addr l.len

/-- PARTIAL.S32PF (43_slice_engines.md R167: as PARTIAL.S32; its prefetch hints have no effect, R163). -/
def execPartialS32pf (seed ddist : Bool) (s : State) : Res :=
  s.command (latchPartial .s32pf seed ddist) fun t l => t.partialE .s32pf l.prev l.addr l.len

end Sys2Proof.Machine
end

