-- ==== Sys2Proof/Machine/Dispatch.lean ====
section
/-! DEFINITION. The dispatch: one arm per command. -/

namespace Sys2Proof.Machine

def exec (i : Instr) (s : State) : Host.Outcome State Fault Refusal :=
  match i with
  | .build => Sys2Proof.Machine.execBuild s
  | .partialAuto seed ddist => Sys2Proof.Machine.execPartialAuto seed ddist s
  | .partialScalar seed => Sys2Proof.Machine.execPartialScalar seed s
  | .partialS16 seed => Sys2Proof.Machine.execPartialS16 seed s
  | .partialS16pf seed ddist => Sys2Proof.Machine.execPartialS16pf seed ddist s
  | .partialS32 seed => Sys2Proof.Machine.execPartialS32 seed s
  | .partialS32pf seed ddist => Sys2Proof.Machine.execPartialS32pf seed ddist s
  | .fullAuto ddist => Sys2Proof.Machine.execFullAuto ddist s
  | .fullScalar => Sys2Proof.Machine.execFullScalar s
  | .fullS16 => Sys2Proof.Machine.execFullS16 s
  | .fullS16pf ddist => Sys2Proof.Machine.execFullS16pf ddist s
  | .fullS32 => Sys2Proof.Machine.execFullS32 s
  | .fullS32pf ddist => Sys2Proof.Machine.execFullS32pf ddist s
  | .finalize seed => Sys2Proof.Machine.execFinalize seed s

end Sys2Proof.Machine
end

