-- ==== Sys2Proof/Machine/Agents.lean ====
section
/-! DEFINITION. The turns of the three agents (40_common.md R100): the host's accesses, the issue step among them (R101),
its stores to platform memory, the core's completion step (R103), the platform's reset (70_reset_and_hazards.md R260);
and the host pseudo-instructions as schedules (30_encoding.md R92). -/

namespace Sys2Proof.Machine

/-- `Issue` (R101; 60_exceptions.md R226 for the order of its errors): a write while BUSY = 1 is dropped undecoded
(R222), a word that decodes to nothing is ILLEGAL_CMD (R221), any other runs its command's issue. -/
def issueWord (s : State) (w : Word) : Res :=
  if s.busy then .next (s.raise .cmdWhileBusy (w.setWidth 64))
  else
    match decode w with
    | .cmd i => exec i s
    | .illegal _ => .next (s.raise .illegalCmd (w.setWidth 64))

/-- The core's turn (R103): enabled exactly when BUSY = 1, it completes the latched command; else nothing happens. -/
def coreTurn (s : State) : Res :=
  match s.run with
  | .idle => .next s
  | .busy lat _ => exec lat.command s

/-- A host write that reached the window (10_state.md R32: a write of CMD performs the issue step). -/
def writeOffset (s : State) (off : Nat) (v : Word) : Res :=
  if csrAt off = .cmd then issueWord s v else .next (s.writeCsr (csrAt off) v)

/-- A host read (10_state.md R22). One that does not reach the window is no access to the core: it changes nothing, and
the value it returns is the platform's, a draw (log entry 8). -/
def hostRead (s : State) (addr width : Nat) : Res :=
  match s.platform.reach addr width with
  | .elsewhere => .next s.bindDraw
  | .badWidth => .refused .csrAccessWidth
  | .misaligned => .refused .csrAccessMisaligned
  | .csr off => .next (s.readCsr (csrAt off))

/-- A host write (10_state.md R22). One that does not reach the window is no access to the core and changes nothing
(log entry 8). -/
def hostWrite (s : State) (addr width : Nat) (v : Word) : Res :=
  match s.platform.reach addr width with
  | .elsewhere => .next s
  | .badWidth => .refused .csrAccessWidth
  | .misaligned => .refused .csrAccessMisaligned
  | .csr off => writeOffset s off v

/-- A host store to a byte of the running command's buffer is noted: its RESULT will be a draw (20_memory.md R67). -/
def Run.noteStore (r : Run) (a : Addr) : Run :=
  match r with
  | .idle => .idle
  | .busy lat raced => .busy lat (raced || lat.bufferHolds a)

/-- The host stores a byte of platform memory (20_memory.md R60, R67). DESIGN CHOICE (log entry 19): so does a store whose
address lies in the register window, an overlap that R74 leaves to the platform; it touches no CSR and is not refused. -/
def State.storeByte (s : State) (a : Addr) (v : Byte) : State :=
  { s with
    mem := s.mem.write a.toNat v
    run := s.run.noteStore a }

/-- One turn of WAIT (30_encoding.md R92): STATUS is read; while BUSY = 1 the host loops, and the core has its turn before
the next read (40_common.md R104; log entry 9). -/
def waitTurn (s : State) : State :=
  let t := s.bind s.statusWord
  if s.busy then { t with pending := .core :: .wait :: t.pending } else t

/-- Reset (70_reset_and_hazards.md R260): every CSR and flag takes its reset value, LAT becomes invalid, a running command
is abandoned. Platform memory, the platform, the schedule and the model's own fields are not the core's and stay. -/
def State.afterReset (s : State) : State :=
  { State.reset with
    mem := s.mem
    platform := s.platform
    pending := s.pending
    rdata := s.rdata
    draws := s.draws }

/-- One agent's turn. -/
def runEvent (s : State) : Event → Res
  | .read addr width => hostRead s addr width
  | .write addr width v => hostWrite s addr width v
  | .writeBack addr => hostWrite s addr 4 s.rdata
  | .wait => .next (waitTurn s)
  | .store a v => .next (s.storeByte a v)
  | .core => coreTurn s
  | .reset => .next s.afterReset

/-- The next turn is taken from the schedule. -/
def State.advance (s : State) : State := { s with pending := s.pending.tail }

/-- The next turn: the schedule's next; with nothing scheduled, the core's, which completes a running command (40_common.md
R104) and otherwise changes nothing (60_exceptions.md R235). -/
def nextTurn (s : State) : Res :=
  match s.pending with
  | [] => coreTurn s
  | e :: _ => runEvent s.advance e

/-- The host's write of one CMD word. -/
def Platform.cmdWrite (p : Platform) (w : Word) : Event := .write (p.coreBase + cmdOffset) 4 w

/-- `WR <CSR>, v` at a window offset (30_encoding.md R91). -/
def Platform.wr (p : Platform) (off : Nat) (v : Word) : Event := .write (p.coreBase + off) 4 v

/-- `RD <CSR>` at a window offset (30_encoding.md R91). -/
def Platform.rd (p : Platform) (off : Nat) : Event := .read (p.coreBase + off) 4

/-- The host's pseudo-instructions (30_encoding.md R92). -/
inductive Pseudo where
  | cmd (i : Instr)
  | wait
  | setaddr (a : Addr)
  | setlen (n : Addr)
  | chain
  | clrdone
  | clrerr
  | crcfull (a n : Addr)
  | crcpart (a n : Addr)
  | crcfin (n : Addr)
deriving DecidableEq, Repr

/-- `SETADDR a` (R92). -/
def Platform.setAddrOps (p : Platform) (a : Addr) : List Event := [p.wr 0x10 (loHalf a), p.wr 0x14 (hiHalf a)]

/-- `SETLEN n` (R92). -/
def Platform.setLenOps (p : Platform) (n : Addr) : List Event := [p.wr 0x18 (loHalf n), p.wr 0x1C (hiHalf n)]

/-- `CHAIN` (R92): RESULT is read and the value written to CRC_IN. -/
def Platform.chainOps (p : Platform) : List Event := [p.rd 0x24, .writeBack (p.coreBase + 0x0C)]

/-- The exact expansion of a pseudo-instruction (R92), as turns of the host; WAIT is the host's polling loop. -/
def Pseudo.expand (p : Platform) : Pseudo → List Event
  | .cmd i => [p.cmdWrite (encode i)]
  | .wait => [.wait]
  | .setaddr a => p.setAddrOps a
  | .setlen n => p.setLenOps n
  | .chain => p.chainOps
  | .clrdone => [p.wr 0x04 0x00000002#32]
  | .clrerr => [p.wr 0x04 0x00000004#32]
  | .crcfull a n =>
    p.setAddrOps a ++ p.setLenOps n ++ [p.cmdWrite (encode (.fullAuto false)), .wait, p.rd 0x24]
  | .crcpart a n =>
    p.setAddrOps a ++ p.setLenOps n ++ [p.cmdWrite (encode (.partialAuto false false)), .wait] ++ p.chainOps
  | .crcfin n => p.setLenOps n ++ [p.cmdWrite (encode (.finalize false)), .wait, p.rd 0x24]

end Sys2Proof.Machine
end

