-- ==== Sys2Proof/Machine/Step.lean ====
section
/-! DEFINITION. One step of the machine: the next turn of the schedule in the state. -/

namespace Sys2Proof.Machine

/-- One step (40_common.md R100). -/
def step (s : State) : Host.Outcome State Fault Refusal := nextTurn s

/-- `s` with an instruction of the opcode table placed where the next step takes it from: the core fetches no
instructions (10_state.md R42), a command arrives as a host write of CMD, so that write becomes the next turn of the
schedule (log entry 10). -/
def State.withFetchWord (s : State) (nbits w : Nat) : State :=
  { s with pending := s.platform.cmdWrite (BitVec.ofNat 32 (w % 2 ^ nbits)) :: s.pending }

end Sys2Proof.Machine
end

