-- ==== Sys2Proof/Safety.lean ====
section
/-! DEFINITION. What the claims are stated in: the invariant every step keeps, the schedules whose accesses the core
admits, and the reference reading of the POSIX `cksum` CRC, bit by bit and without a table (00_scope.md R3,
41_table_builder.md R120). -/

namespace Sys2Proof.Machine

/-- While TBL = 1, TBLMEM holds the table (10_state.md R40). -/
abbrev State.tableOk (s : State) : Prop := s.status.tbl = true → s.tblmem = tableImage

/-- ERR, ECODE and EINFO go together: without an error ECODE and EINFO are 0, with one ECODE is 1, 2 or 3 (10_state.md
R28, R30, R39). -/
abbrev State.errorOk (s : State) : Prop :=
  if s.status.err = true then s.status.ecode = 1#4 ∨ s.status.ecode = 2#4 ∨ s.status.ecode = 3#4
  else s.status.ecode = 0#4 ∧ s.einfoLo = 0#32 ∧ s.einfoHi = 0#32

/-- A latched record as issue leaves it: its engine is never AUTO (40_common.md R102), a FULL command starts from SEED
(30_encoding.md R88). -/
abbrev Latch.ok (l : Latch) : Prop := l.eng ≠ .auto ∧ (l.op = .fullOp → l.prev = Config.seed)

/-- While BUSY = 1, DONE = 0 (10_state.md R26, R27), LAT is as issue left it, and only a command that reads a buffer can
have been raced (20_memory.md R67). -/
def State.runOk (s : State) : Bool :=
  match s.run with
  | .idle => true
  | .busy lat raced => !s.status.done && decide lat.ok && (!raced || lat.readsBuffer)

/-- The invariant of the machine. -/
abbrev State.Inv (s : State) : Prop := Memory.wf s.mem = true ∧ s.tableOk ∧ s.errorOk ∧ s.runOk = true

/-- The state after a completion that recorded no error and left `r` in RESULT (40_common.md R103): the table is built,
BUSY is cleared, DONE set, and nothing else differs. -/
def State.completedWith (s : State) (r : Word) : State :=
  { s with
    run := .idle
    status := { s.status with done := true, tbl := true }
    tblmem := tableImage
    result := r }

/-- The access is one the core gives a meaning to, or none to the core at all (10_state.md R22). -/
def Platform.accessOk (p : Platform) (addr width : Nat) : Bool :=
  match p.reach addr width with
  | .elsewhere => true
  | .badWidth => false
  | .misaligned => false
  | .csr _ => true

/-- No access of the turn is one a model refuses by name (10_state.md R22). -/
def Event.accessOk (p : Platform) : Event → Bool
  | .read addr width => p.accessOk addr width
  | .write addr width _ => p.accessOk addr width
  | .writeBack addr => p.accessOk addr 4
  | .wait => true
  | .store _ _ => true
  | .core => true
  | .reset => true

/-- No access of the schedule is one a model refuses. -/
abbrev State.scheduleOk (s : State) : Prop := ∀ e ∈ s.pending, e.accessOk s.platform = true

/-- One bit of the message enters the remainder, polynomial division most significant bit first (41_table_builder.md
R120). -/
def crcBit (c : Word) (b : Bool) : Word :=
  if (c.getLsbD 31 ^^ b) = true then (c <<< 1) ^^^ poly else c <<< 1

/-- The bits of a byte, bit 7 first (41_table_builder.md R120). -/
def byteBits (b : Byte) : List Bool := [7, 6, 5, 4, 3, 2, 1, 0].map b.getLsbD

/-- The remainder after a message, from remainder 0 (00_scope.md R3). -/
def crcOf (bs : List Byte) : Word := (bs.flatMap byteBits).foldl crcBit 0#32

/-- The bytes of a length in its minimal little-endian form, at most `fuel` of them (44_finalize_dispatch.md R190). -/
def lengthBytes : Nat → Nat → List Byte
  | 0, _ => []
  | fuel + 1, n => if n = 0 then [] else BitVec.ofNat 8 n :: lengthBytes fuel (n / 256)

/-- POSIX `cksum` of a byte sequence (00_scope.md R3): remainder 0, the data, the byte count low byte first in as few
bytes as it needs, the complement. -/
def cksum (bs : List Byte) : Word := ~~~ crcOf (bs ++ lengthBytes 8 bs.length)

end Sys2Proof.Machine
end

