-- ==== Sys2Proof/Certificates/Slice0/Obligations.lean ====
section
/-! DEFINITION. The statements for the provers. Each docstring names the rule of spec/ it formalises, and the log entry
where a clause is the model's own choice. A free value of the spec appears as `Config.freeWord s.draws`, for every state,
so for every value of the field `draws`. -/

open Sys2Proof Sys2Proof.Machine

/-! ### Encoding -/

/-- The decoder and the encoder agree on every word: a word decodes to a command exactly when it is that command's
encoding, so no bit of a word is dropped (30_encoding.md R80 to R87). -/
def Obligations.DecodeInvertsEncode : Prop :=
  ∀ (w : Word) (i : Instr), decode w = .cmd i ↔ w = encode i

/-- R87: decode accepts exactly the words of the opcode map R86, and these are the words that break no condition of
R90. -/
def Obligations.DecodeAcceptsTheOpcodeMap : Prop :=
  ∀ w : Word, ((∃ i, decode w = .cmd i) ↔ legalWord w = true) ∧
    (legalWord w = true ↔ (Fields.ofWord w).wellFormed = true)

/-- R86: no word matches two rows, and 30 of the 2^32 words are legal. -/
def Obligations.ThirtyLegalWordsInDisjointRows : Prop :=
  (∀ (w : Word) (r q : OpcodeRow), r ∈ opcodeRows → q ∈ opcodeRows →
    r.matchesWord w = true → q.matchesWord w = true → r = q) ∧
  (∀ w : Word, legalWord w = true → w.toNat < 1024) ∧
  ((List.range 1024).filter fun n => legalWord (BitVec.ofNat 32 n)).length = 30

/-- Words written out from the field layout R80 and the codes R81, R82 decode to the commands they stand for. -/
def Obligations.WrittenWordsDecode : Prop :=
  decode 0b00000000000000000000000000000001#32 = .cmd .build ∧
  decode 0b00000000000000000000001100110010#32 = .cmd (.partialS16pf true true) ∧
  decode 0b00000000000000000000000100010010#32 = .cmd (.partialScalar true) ∧
  decode 0b00000000000000000000000001000011#32 = .cmd .fullS32 ∧
  decode 0b00000000000000000000001000000011#32 = .cmd (.fullAuto true) ∧
  decode 0b00000000000000000000000100000100#32 = .cmd (.finalize true)

/-- A command is the four bytes of one CMD write, lowest byte first (20_memory.md R63, 30_encoding.md R89); any other
number of bytes is no command. -/
def Obligations.CommandIsFourBytesLowestFirst : Prop :=
  (∀ i, decodeBytes (encodeBytes i) = .cmd i) ∧
  (∀ bs : List Byte, bs.length ≠ 4 → decodeBytes bs = .illegal .notOneWord)

/-! ### Steps and issue -/

/-- A step runs the decoded command: a host write of CMD while idle is `exec` of the command its word decodes to (R32,
R101), and the core's turn while busy is `exec` of the command LAT holds (R103). That with nothing scheduled the very next
step is the core's turn is the model's choice (log entry 1): the rules only say that the core moves after finitely many
steps. That a command is loaded as the first turn of the schedule, `withFetchWord`, is the model's choice (log entry
10). -/
def Obligations.StepRunsTheDecodedCommand : Prop :=
  (∀ (s : State) (w : Word) (i : Instr) (rest : List Event),
    s.pending = s.platform.cmdWrite w :: rest → s.run = .idle → decode w = .cmd i →
    step s = exec i { s with pending := rest }) ∧
  (∀ (s : State) (l : Latch) (raced : Bool) (rest : List Event),
    s.pending = .core :: rest ∨ (s.pending = [] ∧ rest = []) → s.run = .busy l raced →
    step s = exec l.command { s with pending := rest }) ∧
  (∀ l : Latch, l.command.op = l.op ∧ (l.readsBuffer = true → l.command.engine = l.eng)) ∧
  (∀ (s : State) (w : Nat), w < 2 ^ 32 →
    s.withFetchWord 32 w = { s with pending := s.platform.cmdWrite (BitVec.ofNat 32 w) :: s.pending })

/-- Issue of the six PARTIAL commands (R101, R102, R88): LAT takes the operands, BUSY is set, DONE cleared, nothing else
changes. AUTO is latched as S16PF (R193). -/
def Obligations.PartialIssueLatchesOperands : Prop :=
  ∀ (i : Instr) (s : State), i.op = .partialOp → s.run = .idle →
    ∃ l : Latch,
      exec i s = .next { s with run := .busy l false, status := { s.status with done := false } } ∧
      l.op = .partialOp ∧ l.eng = (if i.engine = .auto then .s16pf else i.engine) ∧
      l.prev = (if i.seedBit = true then 0xFFFFFFFF#32 else s.crcIn) ∧
      l.addr = s.addrHi ++ s.addrLo ∧ l.len = s.lenHi ++ s.lenLo ∧
      (i.engine = .auto ∨ i.engine = .s16pf ∨ i.engine = .s32pf →
        l.dist = if i.ddistBit = true then 256#32 else s.dist)

/-- Issue of the six FULL commands (R101, R102, R88): as PARTIAL, from SEED. -/
def Obligations.FullIssueLatchesOperands : Prop :=
  ∀ (i : Instr) (s : State), i.op = .fullOp → s.run = .idle →
    ∃ l : Latch,
      exec i s = .next { s with run := .busy l false, status := { s.status with done := false } } ∧
      l.op = .fullOp ∧ l.eng = (if i.engine = .auto then .s16pf else i.engine) ∧
      l.prev = 0xFFFFFFFF#32 ∧ l.addr = s.addrHi ++ s.addrLo ∧ l.len = s.lenHi ++ s.lenLo ∧
      (i.engine = .auto ∨ i.engine = .s16pf ∨ i.engine = .s32pf →
        l.dist = if i.ddistBit = true then 256#32 else s.dist)

/-- Issue of BUILD and FINALIZE (R101, R102, R88). -/
def Obligations.BuildAndFinalizeIssueLatchOperands : Prop :=
  (∀ s : State, s.run = .idle →
    ∃ l : Latch, exec .build s = .next { s with run := .busy l false, status := { s.status with done := false } } ∧
      l.op = .buildOp) ∧
  (∀ (seed : Bool) (s : State), s.run = .idle →
    ∃ l : Latch,
      exec (.finalize seed) s = .next { s with run := .busy l false, status := { s.status with done := false } } ∧
      l.op = .finalizeOp ∧ l.prev = (if seed = true then 0xFFFFFFFF#32 else s.crcIn) ∧ l.len = s.lenHi ++ s.lenLo)

/-! ### Errors -/

/-- R222: a CMD write of any word while BUSY = 1 records CMD_WHILE_BUSY by R224 with EINFO the word, and changes nothing
else. -/
def Obligations.WriteWhileBusyIsDropped : Prop :=
  ∀ (s : State) (w : Word) (rest : List Event) (l : Latch) (raced : Bool),
    s.pending = s.platform.cmdWrite w :: rest → s.run = .busy l raced →
    (s.status.err = true → step s = .next { s with pending := rest }) ∧
    (s.status.err = false → step s = .next { s with
      pending := rest, status := { s.status with err := true, ecode := 2#4 }, einfoLo := w, einfoHi := 0#32 })

/-- R221: a CMD write of a word that is no command while BUSY = 0 records ILLEGAL_CMD by R224 with EINFO the word, and
changes nothing else; 0x00000212 is such a word. -/
def Obligations.IllegalWordIsRecorded : Prop :=
  (∀ (s : State) (w : Word) (rest : List Event),
    s.pending = s.platform.cmdWrite w :: rest → s.run = .idle → legalWord w = false →
    (s.status.err = true → step s = .next { s with pending := rest }) ∧
    (s.status.err = false → step s = .next { s with
      pending := rest, status := { s.status with err := true, ecode := 1#4 }, einfoLo := w, einfoHi := 0#32 })) ∧
  legalWord 0x00000212#32 = false

/-- R223: a PARTIAL or FULL command whose buffer holds an unadmitted address, or passes 2^64, completes with MEM_FAULT
recorded by R224, EINFO the lowest such address mod 2^64, the table built, and RESULT a draw (one draw, stored: log entry
5). -/
def Obligations.UnadmittedBufferFaultsAtCompletion : Prop :=
  ∀ (i : Instr) (s : State) (l : Latch) (raced : Bool) (j : Nat),
    i.op = .partialOp ∨ i.op = .fullOp → s.run = .busy l raced → s.tableOk → j < l.len.toNat →
    s.platform.admits (l.addr.toNat + j) = false →
    (∀ k, k < j → s.platform.admits (l.addr.toNat + k) = true) →
    (s.status.err = true → exec i s = .next { s.completedWith (Config.freeWord s.draws) with draws := s.draws + 1 }) ∧
    (s.status.err = false → exec i s = .next { s.completedWith (Config.freeWord s.draws) with
      draws := s.draws + 1
      status := { done := true, err := true, tbl := true, ecode := 3#4 }
      einfoLo := (BitVec.ofNat 64 (l.addr.toNat + j)).extractLsb' 0 32
      einfoHi := (BitVec.ofNat 64 (l.addr.toNat + j)).extractLsb' 32 32 })

/-- R28, R30: an error stays, with its code and EINFO, until a reset or a host write of STATUS with bit 2 set. -/
def Obligations.ErrorStaysUntilCleared : Prop :=
  ∀ (s t : State), step s = .next t → s.status.err = true →
    (t.status.err = true ∧ t.status.ecode = s.status.ecode ∧ t.einfoLo = s.einfoLo ∧ t.einfoHi = s.einfoHi) ∨
    s.pending.head? = some .reset ∨
    (∃ v : Word, v.getLsbD 2 = true ∧
      (s.pending.head? = some (.write (s.platform.coreBase + 0x04) 4 v) ∨
        (s.pending.head? = some (.writeBack (s.platform.coreBase + 0x04)) ∧ v = s.rdata)))

/-! ### The register window -/

/-- R31: the exact effect of a host write of STATUS and the word a read of it returns. -/
def Obligations.StatusWriteAndRead : Prop :=
  (∀ (s : State) (v : Word) (rest : List Event), s.pending = s.platform.wr 0x04 v :: rest →
    step s = .next { s with
      pending := rest
      status :=
        { done := s.status.done && !v.getLsbD 1
          err := s.status.err && !v.getLsbD 2
          tbl := s.status.tbl
          ecode := if v.getLsbD 2 = true then 0#4 else s.status.ecode }
      einfoLo := if v.getLsbD 2 = true then 0#32 else s.einfoLo
      einfoHi := if v.getLsbD 2 = true then 0#32 else s.einfoHi }) ∧
  (∀ (s : State) (rest : List Event), s.pending = s.platform.rd 0x04 :: rest →
    ∃ v : Word, step s = .next { s with pending := rest, rdata := v } ∧
      v.getLsbD 0 = s.busy ∧ v.getLsbD 1 = s.status.done ∧ v.getLsbD 2 = s.status.err ∧
      v.getLsbD 3 = s.status.tbl ∧ v.extractLsb' 4 4 = 0#4 ∧ v.extractLsb' 8 4 = s.status.ecode ∧
      v.extractLsb' 12 20 = 0#20)

/-- R21, R24, R32 to R39: what a host read of every register but STATUS, RESULT and the table window returns; the read
changes nothing else (20_memory.md R66). -/
def Obligations.RegisterReads : Prop :=
  ∀ (s : State) (off : Nat) (rest : List Event), s.pending = s.platform.rd off :: rest →
    (off = 0x00 → step s = .next { s with pending := rest, rdata := 0x43524320#32 }) ∧
    (off = 0x08 → step s = .next { s with pending := rest, rdata := 0#32 }) ∧
    (off = 0x0C → step s = .next { s with pending := rest, rdata := s.crcIn }) ∧
    (off = 0x10 → step s = .next { s with pending := rest, rdata := s.addrLo }) ∧
    (off = 0x14 → step s = .next { s with pending := rest, rdata := s.addrHi }) ∧
    (off = 0x18 → step s = .next { s with pending := rest, rdata := s.lenLo }) ∧
    (off = 0x1C → step s = .next { s with pending := rest, rdata := s.lenHi }) ∧
    (off = 0x20 → step s = .next { s with pending := rest, rdata := s.dist }) ∧
    (off = 0x28 → step s = .next { s with pending := rest, rdata := 0xFFFFFFFF#32 }) ∧
    (off = 0x2C → step s = .next { s with pending := rest, rdata := s.einfoLo }) ∧
    (off = 0x30 → step s = .next { s with pending := rest, rdata := s.einfoHi })

/-- R37, 70_reset_and_hazards.md R263: RESULT read while BUSY = 1 is a draw; otherwise it is the last value written. After
a completion that recorded MEM_FAULT, R37 calls RESULT unspecified: that a read then returns the one stored draw, so that
two reads agree, is the model's reading (log entry 5, DEDUCED, unsafe for that claim). -/
def Obligations.ResultReadIsADrawWhileBusy : Prop :=
  ∀ (s : State) (rest : List Event), s.pending = s.platform.rd 0x24 :: rest →
    (s.busy = true → step s = .next { s with
      pending := rest, rdata := Config.freeWord s.draws, draws := s.draws + 1 }) ∧
    (s.busy = false → step s = .next { s with pending := rest, rdata := s.result })

/-- R23: a reserved offset reads 0 and ignores writes, a read-only register ignores writes, and no such access sets an
error or changes anything else. -/
def Obligations.ReservedAndReadOnlyAccesses : Prop :=
  (∀ (s : State) (off : Nat) (rest : List Event), 0x34 ≤ off → off < 0x8000 → off % 4 = 0 →
    s.pending = s.platform.rd off :: rest → step s = .next { s with pending := rest, rdata := 0#32 }) ∧
  (∀ (s : State) (off : Nat) (v : Word) (rest : List Event), off < 0x10000 → off % 4 = 0 →
    off = 0x00 ∨ off = 0x24 ∨ off = 0x28 ∨ off = 0x2C ∨ 0x30 ≤ off →
    s.pending = s.platform.wr off v :: rest → step s = .next { s with pending := rest })

/-- R41: the table window. -/
def Obligations.TableWindowReads : Prop :=
  (∀ (s : State) (k i : Nat) (rest : List Event), k < 32 → i < 256 → s.tableOk →
    s.pending = s.platform.rd (0x8000 + 4 * (256 * k + i)) :: rest →
    step s = .next { s with
      pending := rest, rdata := if s.status.tbl = true then T k (BitVec.ofNat 8 i) else 0#32 }) ∧
  (∀ (s : State) (k i : Nat) (v : Word) (rest : List Event), k < 32 → i < 256 →
    s.pending = s.platform.wr (0x8000 + 4 * (256 * k + i)) v :: rest → step s = .next { s with pending := rest })

/-- 70_reset_and_hazards.md R266: a host write of an argument register changes it at once, busy or not, and nothing else,
LAT included. -/
def Obligations.ArgumentWritesTakeEffectAtOnce : Prop :=
  ∀ (s : State) (off : Nat) (v : Word) (rest : List Event), s.pending = s.platform.wr off v :: rest →
    (off = 0x0C → step s = .next { s with pending := rest, crcIn := v }) ∧
    (off = 0x10 → step s = .next { s with pending := rest, addrLo := v }) ∧
    (off = 0x14 → step s = .next { s with pending := rest, addrHi := v }) ∧
    (off = 0x18 → step s = .next { s with pending := rest, lenLo := v }) ∧
    (off = 0x1C → step s = .next { s with pending := rest, lenHi := v }) ∧
    (off = 0x20 → step s = .next { s with pending := rest, dist := v })

/-- R22: an access that starts in the window is refused by name unless it is 32 bits wide at a multiple of 4; an admitted
one answers a next state; and nothing but a host access is ever refused. What an access that only reaches into the window
from below is (`Platform.reach`) is the model's choice (log entry 8). -/
def Obligations.OnlyAlignedWordAccessesAreAdmitted : Prop :=
  (∀ (s : State) (e : Event) (addr width : Nat), s.platform.coreBase ≤ addr → addr < s.platform.coreBase + 0x10000 →
    0 < width → e = .read addr width ∨ (∃ v, e = .write addr width v) → s.pending.head? = some e →
    (width ≠ 4 → step s = .refused .csrAccessWidth) ∧
    (width = 4 → (addr - s.platform.coreBase) % 4 ≠ 0 → step s = .refused .csrAccessMisaligned) ∧
    (width = 4 → (addr - s.platform.coreBase) % 4 = 0 → ∃ t, step s = .next t)) ∧
  (∀ (s : State) (r : Refusal), step s = .refused r →
    (r = .csrAccessWidth ∨ r = .csrAccessMisaligned) ∧
    ∃ e, s.pending.head? = some e ∧ e.accessOk s.platform = false)

/-! ### The table -/

/-- 41_table_builder.md R123: slice `k` is the remainder byte `i` leaves after `k` zero bytes. -/
def Obligations.TableSliceIsZeroByteFold : Prop :=
  ∀ (k : Nat) (i : Byte), T k i = foldBytes T 0#32 ([i] ++ List.replicate k 0#8)

/-- 41_table_builder.md R124: every slice is linear over exclusive-or, and so is the byte update. -/
def Obligations.TableIsLinear : Prop :=
  (∀ (k : Nat) (a b : Byte), T k (a ^^^ b) = T k a ^^^ T k b) ∧ (∀ k : Nat, T k 0#8 = 0#32) ∧
  (∀ (c d : Word) (a b : Byte), stepByte T (c ^^^ d) (a ^^^ b) = stepByte T c a ^^^ stepByte T d b)

/-- 41_table_builder.md R120: the byte fold from remainder 0 is polynomial division over GF(2) by the generator, most
significant bit first: message times x^32 is a multiple of the generator plus the remainder, bit 31 its x^31. -/
def Obligations.ByteFoldIsPolynomialRemainder : Prop :=
  ∀ bs : List Byte, ∃ q : Polynomial (ZMod 2),
    (bs.flatMap byteBits).foldl (fun p b => p * Polynomial.X + (if b = true then 1 else 0)) (0 : Polynomial (ZMod 2)) *
        Polynomial.X ^ 32 =
      q * (Polynomial.X ^ 32 + Polynomial.X ^ 26 + Polynomial.X ^ 23 + Polynomial.X ^ 22 + Polynomial.X ^ 16 +
          Polynomial.X ^ 12 + Polynomial.X ^ 11 + Polynomial.X ^ 10 + Polynomial.X ^ 8 + Polynomial.X ^ 7 +
          Polynomial.X ^ 5 + Polynomial.X ^ 4 + Polynomial.X ^ 2 + Polynomial.X + 1) +
        ∑ n ∈ Finset.range 32, (if (foldBytes T 0#32 bs).getLsbD n = true then Polynomial.X ^ n else 0)

/-- 41_table_builder.md R126, 10_state.md R29: once built, the table stays until reset, its flag and its contents; and it
is built by a completion only. -/
def Obligations.TableStaysOnceBuilt : Prop :=
  ∀ (s t : State), step s = .next t → s.pending.head? ≠ some .reset →
    (s.status.tbl = true → t.status.tbl = true ∧ t.tblmem = s.tblmem) ∧
    (s.status.tbl = false → t.status.tbl = true → s.busy = true ∧ t.busy = false ∧ t.tblmem = tableImage)

/-- BUILD completes (41_table_builder.md R125): the table is built, RESULT keeps its value. -/
def Obligations.BuildCompletes : Prop :=
  ∀ (s : State) (l : Latch) (raced : Bool), s.run = .busy l raced → s.tableOk →
    exec .build s = .next (s.completedWith s.result)

/-! ### PARTIAL -/

/-- PARTIAL.SCALAR completes with the byte fold of the buffer (42_scalar_engine.md R140). -/
def Obligations.PartialScalarCompletes : Prop :=
  ∀ (seed : Bool) (s : State) (l : Latch) (bs : List Byte), s.run = .busy l false → s.tableOk →
    readBuf s.platform s.mem l.addr l.len = .bytes bs →
    exec (.partialScalar seed) s = .next (s.completedWith (~~~ foldBytes T (~~~ l.prev) bs))

/-- PARTIAL.S16, PARTIAL.S16PF and PARTIAL.AUTO complete with the sliced fold of 16-byte groups (43_slice_engines.md R161,
R164, R165; 44_finalize_dispatch.md R194). -/
def Obligations.PartialSixteenCompletes : Prop :=
  ∀ (seed ddist : Bool) (s : State) (l : Latch) (bs : List Byte), s.run = .busy l false → s.tableOk →
    readBuf s.platform s.mem l.addr l.len = .bytes bs →
    exec (.partialS16 seed) s = .next (s.completedWith (~~~ sliceFold T 16 (~~~ l.prev) bs)) ∧
    exec (.partialS16pf seed ddist) s = .next (s.completedWith (~~~ sliceFold T 16 (~~~ l.prev) bs)) ∧
    exec (.partialAuto seed ddist) s = .next (s.completedWith (~~~ sliceFold T 16 (~~~ l.prev) bs))

/-- PARTIAL.S32 and PARTIAL.S32PF complete with the sliced fold of 32-byte groups (43_slice_engines.md R161, R166,
R167). -/
def Obligations.PartialThirtyTwoCompletes : Prop :=
  ∀ (seed ddist : Bool) (s : State) (l : Latch) (bs : List Byte), s.run = .busy l false → s.tableOk →
    readBuf s.platform s.mem l.addr l.len = .bytes bs →
    exec (.partialS32 seed) s = .next (s.completedWith (~~~ sliceFold T 32 (~~~ l.prev) bs)) ∧
    exec (.partialS32pf seed ddist) s = .next (s.completedWith (~~~ sliceFold T 32 (~~~ l.prev) bs))

/-- 43_slice_engines.md R162: the slice engines equal the scalar engine, group by group and as a whole. -/
def Obligations.SliceFoldEqualsByteFold : Prop :=
  ∀ (k : Nat), k = 16 ∨ k = 32 → ∀ (c : Word) (bs : List Byte),
    (bs.length = k → groupStep T k c bs = foldBytes T c bs) ∧ sliceFold T k c bs = foldBytes T c bs

/-- 42_scalar_engine.md R141: every PARTIAL command, whatever its engine, S and D, completes with the scalar engine's
result on the same operands. -/
def Obligations.EveryEngineGivesTheScalarResult : Prop :=
  ∀ (i : Instr) (s : State) (l : Latch) (bs : List Byte), i.op = .partialOp → s.run = .busy l false → s.tableOk →
    readBuf s.platform s.mem l.addr l.len = .bytes bs →
    exec i s = .next (s.completedWith (~~~ foldBytes T (~~~ l.prev) bs))

/-- 40_common.md R114: a zero-length PARTIAL leaves the register unchanged, for every engine, address and distance. -/
def Obligations.ZeroLengthPartialKeepsTheRegister : Prop :=
  ∀ (i : Instr) (s : State) (l : Latch), i.op = .partialOp → s.run = .busy l false → s.tableOk → l.len = 0#64 →
    exec i s = .next (s.completedWith l.prev)

/-- 40_common.md R111, the streaming contract: pieces folded in order, each by any engine, give what one fold of the whole
buffer gives. -/
def Obligations.StreamingEqualsOneFold : Prop :=
  ∀ (pieces : List (Engine × List Byte)) (prev : Word) (e : Engine),
    pieces.foldl (fun r p => ~~~ foldEngine T p.1 (~~~ r) p.2) prev =
      ~~~ foldEngine T e (~~~ prev) (pieces.flatMap fun p => p.2)

/-- 30_encoding.md R84, 43_slice_engines.md R163, R168: neither the latched distance nor the D bit changes anything a
completion does. -/
def Obligations.PrefetchDistanceHasNoEffect : Prop :=
  ∀ (i j : Instr) (s : State) (l : Latch) (raced : Bool) (d : Word),
    i.op = j.op → i.engine = j.engine → s.run = .busy l raced →
    exec i s = exec j { s with run := .busy { l with dist := d } raced }

/-- The model's list of hint addresses, `Latch.hints`, has one per whole group, at the group's start plus the distance,
modulo 2^64, as the loop of 43_slice_engines.md R161 issues them; none for an engine that does not prefetch. The list
stands beside the machine, no step reads it, and it is the same for a command that faults, whose loop never starts
(40_common.md R110): the model's reading, log entry 12 (DEDUCED). -/
def Obligations.HintAddressesFollowTheGroups : Prop :=
  ∀ (l : Latch), l.op = .partialOp ∨ l.op = .fullOp →
    (l.eng = .s16pf → l.hints.length = l.len.toNat / 16 ∧ ∀ q, q < l.len.toNat / 16 →
      (l.hints[q]?).map BitVec.toNat = some ((l.addr.toNat + 16 * q + l.dist.toNat) % 2 ^ 64)) ∧
    (l.eng = .s32pf → l.hints.length = l.len.toNat / 32 ∧ ∀ q, q < l.len.toNat / 32 →
      (l.hints[q]?).map BitVec.toNat = some ((l.addr.toNat + 32 * q + l.dist.toNat) % 2 ^ 64)) ∧
    (l.eng = .scalar ∨ l.eng = .s16 ∨ l.eng = .s32 → l.hints = [])

/-! ### The buffer -/

/-- 40_common.md R109: the buffer read answers the bytes in address order exactly when the whole range is admitted, and
otherwise the lowest unadmitted address mod 2^64; addresses are summed without wrap. -/
def Obligations.BufferReadChecksTheWholeRange : Prop :=
  ∀ (p : Platform) (m : Memory) (addr n : Addr),
    ((∀ j, j < n.toNat → p.admits (addr.toNat + j) = true) →
      ∃ bs : List Byte, readBuf p m addr n = .bytes bs ∧ bs.length = n.toNat ∧
        ∀ j, j < n.toNat → bs[j]? = some (m.read (addr.toNat + j))) ∧
    (∀ j, j < n.toNat → p.admits (addr.toNat + j) = false →
      (∀ k, k < j → p.admits (addr.toNat + k) = true) →
      readBuf p m addr n = .memFault (BitVec.ofNat 64 (addr.toNat + j))) ∧
    (∀ a, 2 ^ 64 ≤ a → p.admits a = false)

/-- 20_memory.md R67, 70_reset_and_hazards.md R265: a host store into the running command's buffer makes the RESULT of a
PARTIAL or FULL command a draw (one draw, stored: log entry 5; which stores race which commands: log entry 16;
a store at an address of the register window is a store to memory: log entry 19). -/
def Obligations.RacingStoreMakesResultADraw : Prop :=
  (∀ (s : State) (l : Latch) (raced : Bool) (a : Addr) (v : Byte) (rest : List Event),
    s.pending = .store a v :: rest → s.run = .busy l raced → l.op = .partialOp ∨ l.op = .fullOp →
    l.addr.toNat ≤ a.toNat → a.toNat < l.addr.toNat + l.len.toNat →
    step s = .next { s with pending := rest, mem := s.mem.write a.toNat v, run := .busy l true }) ∧
  (∀ (i : Instr) (s : State) (l : Latch) (bs : List Byte), i.op = .partialOp ∨ i.op = .fullOp →
    s.run = .busy l true → s.tableOk → readBuf s.platform s.mem l.addr l.len = .bytes bs →
    exec i s = .next { s.completedWith (Config.freeWord s.draws) with draws := s.draws + 1 })

/-- 70_reset_and_hazards.md R265: a host store elsewhere is harmless: the running command goes on unraced and reads the
same buffer; the stored byte reads back and every other byte is as before. That this holds of a store at an address of the
register window too is the model's choice (log entry 19). -/
def Obligations.StoreElsewhereIsHarmless : Prop :=
  ∀ (s : State) (l : Latch) (raced : Bool) (a : Addr) (v : Byte) (rest : List Event),
    s.pending = .store a v :: rest → s.run = .busy l raced → Memory.wf s.mem = true →
    a.toNat < l.addr.toNat ∨ l.addr.toNat + l.len.toNat ≤ a.toNat →
    ∃ t : State, step s = .next t ∧ t = { s with pending := rest, mem := t.mem } ∧
      readBuf t.platform t.mem l.addr l.len = readBuf s.platform s.mem l.addr l.len ∧
      t.mem.read a.toNat = v ∧ ∀ x, x ≠ a.toNat → t.mem.read x = s.mem.read x

/-- No step but a host store changes a byte of memory, and no step changes the platform's parameters. R65 and R20 say so
of the core's own steps. The rest is the model's: a host bus write outside the register window is no store (log entry 8,
DESIGN CHOICE, unsafe), a reset leaves memory and the platform (log entry 14, DEDUCED), the platform's parameters are
data that no step changes (log entry 3). -/
def Obligations.OnlyTheHostWritesMemory : Prop :=
  ∀ (s t : State), step s = .next t → t.platform = s.platform ∧
    ((∀ a v, s.pending.head? ≠ some (.store a v)) → t.mem = s.mem)

/-! ### FINALIZE and FULL -/

/-- 44_finalize_dispatch.md R190: the length is folded in as the bytes of its minimal little-endian form, low byte first,
and the result complemented. -/
def Obligations.FinalizeFoldsTheMinimalLength : Prop :=
  (∀ (n : Addr) (prev : Word), finalizeWord T n prev = ~~~ foldBytes T (~~~ prev) (lengthBytes 8 n.toNat)) ∧
  (∀ n : Addr, n.toNat < 256 ^ (lengthBytes 8 n.toNat).length ∧
    (n ≠ 0#64 → 256 ^ ((lengthBytes 8 n.toNat).length - 1) ≤ n.toNat) ∧
    (n = 0#64 → lengthBytes 8 n.toNat = []) ∧
    ∀ j, j < (lengthBytes 8 n.toNat).length →
      ((lengthBytes 8 n.toNat)[j]?).map BitVec.toNat = some (n.toNat / 256 ^ j % 256))

/-- FINALIZE completes (44_finalize_dispatch.md R191), whatever the address map. -/
def Obligations.FinalizeCompletes : Prop :=
  ∀ (seed : Bool) (s : State) (l : Latch), s.run = .busy l false → s.tableOk →
    exec (.finalize seed) s = .next (s.completedWith (finalizeWord T l.len l.prev))

/-- 44_finalize_dispatch.md R202: finalizing with length 0 is the identity; with length 4 it is not idempotent on the
spec's example. -/
def Obligations.FinalizeOfZeroIsIdentity : Prop :=
  (∀ r : Word, finalizeWord T 0#64 r = r) ∧
  finalizeWord T 4#64 0x9334B8E7#32 = 0xBE15CCD0#32 ∧
  finalizeWord T 4#64 (finalizeWord T 4#64 0x9334B8E7#32) = 0x368FCBE3#32

/-- The six FULL commands complete as the length fold of a PARTIAL from SEED with their engine (44_finalize_dispatch.md
R192, R195 to R200). -/
def Obligations.FullIsFinalizeOfPartialFromSeed : Prop :=
  ∀ (i : Instr) (s : State) (l : Latch) (bs : List Byte), i.op = .fullOp → s.run = .busy l false → s.tableOk →
    readBuf s.platform s.mem l.addr l.len = .bytes bs →
    exec i s = .next (s.completedWith (finalizeWord T l.len (~~~ foldEngine T i.engine (~~~ 0xFFFFFFFF#32) bs)))

/-- 44_finalize_dispatch.md R201: every FULL command completes with the POSIX `cksum` of its buffer, computed bit by bit
and without a table. -/
def Obligations.FullIsPosixCksum : Prop :=
  ∀ (i : Instr) (s : State) (l : Latch) (bs : List Byte), i.op = .fullOp → s.run = .busy l false → s.tableOk →
    readBuf s.platform s.mem l.addr l.len = .bytes bs → exec i s = .next (s.completedWith (cksum bs))

/-- From the host's CMD write to the checksum (R101, R103, R201): an idle core whose schedule starts with the write of a
FULL command's word and the core's turn holds, two steps later, the POSIX `cksum` of the buffer ADDR and LEN name. -/
def Obligations.FullCommandComputesCksumInTwoSteps : Prop :=
  ∀ (i : Instr) (s : State) (bs : List Byte) (rest : List Event), i.op = .fullOp → s.run = .idle → s.tableOk →
    s.pending = s.platform.cmdWrite (encode i) :: .core :: rest →
    readBuf s.platform s.mem (s.addrHi ++ s.addrLo) (s.lenHi ++ s.lenLo) = .bytes bs →
    Host.Core.run Sys2Proof.core 2 s = .next { s.completedWith (cksum bs) with pending := rest }

/-! ### Frames and invariants over all steps -/

/-- 60_exceptions.md R227, 10_state.md R20: no command ever stops, in any state, and none changes an argument register, a
byte of memory, the platform, the schedule or the host's value. -/
def Obligations.CommandsAlwaysGoOnAndKeepTheArguments : Prop :=
  ∀ (i : Instr) (s : State), ∃ t : State, exec i s = .next t ∧
    t.crcIn = s.crcIn ∧ t.addrLo = s.addrLo ∧ t.addrHi = s.addrHi ∧ t.lenLo = s.lenLo ∧ t.lenHi = s.lenHi ∧
    t.dist = s.dist ∧ t.platform = s.platform ∧ t.pending = s.pending ∧ t.rdata = s.rdata ∧
    (∀ a : Nat, t.mem.read a = s.mem.read a) ∧
    (s.status.err = true →
      t.status.err = true ∧ t.status.ecode = s.status.ecode ∧ t.einfoLo = s.einfoLo ∧ t.einfoHi = s.einfoHi)

/-- 10_state.md R26: BUSY is set by a host write of a command's word to CMD only, and cleared by the core's turn or a
reset only. An empty schedule is the core's turn (the model's choice, log entry 1). -/
def Obligations.BusyChangesOnlyByIssueCompletionReset : Prop :=
  ∀ (s t : State), step s = .next t →
    (s.busy = false → t.busy = true → ∃ v : Word, legalWord v = true ∧
      (s.pending.head? = some (.write (s.platform.coreBase + 0x08) 4 v) ∨
        (s.pending.head? = some (.writeBack (s.platform.coreBase + 0x08)) ∧ v = s.rdata))) ∧
    (s.busy = true → t.busy = false →
      s.pending = [] ∨ s.pending.head? = some .core ∨ s.pending.head? = some .reset)

/-- 10_state.md R37: RESULT changes by the completion of a running command or a reset only. An empty schedule is the
core's turn (the model's choice, log entry 1); that the draw of a faulted completion stays is log entry 5. -/
def Obligations.ResultChangesOnlyAtCompletion : Prop :=
  ∀ (s t : State), step s = .next t → t.result ≠ s.result →
    (s.busy = true ∧ t.busy = false ∧ t.status.done = true ∧ (s.pending = [] ∨ s.pending.head? = some .core)) ∨
    s.pending.head? = some .reset

/-- 40_common.md R100, 60_exceptions.md R235: the core's turn while BUSY = 0 changes nothing. That it can be taken then, and
that an empty schedule is the core's turn, are the model's choice (log entry 1). -/
def Obligations.IdleCoreChangesNothing : Prop :=
  ∀ (s : State), s.run = .idle →
    (∀ rest, s.pending = .core :: rest → step s = .next { s with pending := rest }) ∧
    (s.pending = [] → step s = .next s)

/-- A running command completes, or a reset ends it (40_common.md R104), if the schedule's host accesses are ones the core
admits. The bound, one step more than the schedule has turns, is the model's choice and no rule's (R104 gives none): the
core moves at once when the schedule is empty (log entry 1) and before the host's next read in WAIT (log entry 9). -/
def Obligations.EveryIssuedCommandCompletes : Prop :=
  ∀ (s : State), s.busy = true → s.scheduleOk →
    ∃ (n : Nat) (t : State), n ≤ s.pending.length + 1 ∧ Host.Core.run Sys2Proof.core n s = .next t ∧ t.run = .idle

/-- 10_state.md R46: the values of the core's state after reset. -/
def Obligations.ResetValues : Prop :=
  State.reset.busy = false ∧ State.reset.run = .idle ∧ State.reset.status = ⟨false, false, false, 0#4⟩ ∧
  State.reset.crcIn = 0xFFFFFFFF#32 ∧ State.reset.addrLo = 0#32 ∧ State.reset.addrHi = 0#32 ∧
  State.reset.lenLo = 0#32 ∧ State.reset.lenHi = 0#32 ∧ State.reset.dist = 0x00000100#32 ∧
  State.reset.result = 0#32 ∧ State.reset.einfoLo = 0#32 ∧ State.reset.einfoHi = 0#32 ∧
  State.reset.csrValue .id = 0x43524320#32 ∧ State.reset.csrValue .seed = 0xFFFFFFFF#32

/-- 70_reset_and_hazards.md R260: a reset, at any time, gives every register its reset value and abandons a running
command; that memory, the platform and the host stay is log entry 14 (DEDUCED). -/
def Obligations.ResetAbandonsTheCommand : Prop :=
  ∀ (s : State) (rest : List Event), s.pending = .reset :: rest →
    ∃ t : State, step s = .next t ∧ t.run = .idle ∧ t.status = ⟨false, false, false, 0#4⟩ ∧
      t.crcIn = 0xFFFFFFFF#32 ∧ t.addrLo = 0#32 ∧ t.addrHi = 0#32 ∧ t.lenLo = 0#32 ∧ t.lenHi = 0#32 ∧
      t.dist = 0x00000100#32 ∧ t.result = 0#32 ∧ t.einfoLo = 0#32 ∧ t.einfoHi = 0#32 ∧
      t.mem = s.mem ∧ t.platform = s.platform ∧ t.pending = rest ∧ t.rdata = s.rdata

/-- The invariant holds after reset. -/
def Obligations.ResetMeetsTheInvariant : Prop := State.reset.Inv

/-- Every step keeps the invariant: memory in its canonical form, the built table equal to `T` (R40), ERR, ECODE and EINFO
together (R28, R30, R39), DONE = 0 while BUSY = 1 (R26, R27), LAT as issue leaves it (R88, R102). -/
def Obligations.StepKeepsTheInvariant : Prop :=
  ∀ (s t : State), s.Inv → step s = .next t → t.Inv

/-! ### The host's pseudo-instructions -/

/-- CHAIN (30_encoding.md R92, 70_reset_and_hazards.md R267): while the core is idle, RESULT is copied into CRC_IN in two
host turns, and nothing else but the host's own value changes. -/
def Obligations.ChainCopiesResultIntoCrcIn : Prop :=
  ∀ (s : State) (rest : List Event), s.run = .idle → s.pending = s.platform.chainOps ++ rest →
    Host.Core.run Sys2Proof.core 2 s = .next { s with pending := rest, rdata := s.result, crcIn := s.result }

/-- WAIT (30_encoding.md R92): one turn of it ends when STATUS reads BUSY = 0; while BUSY = 1 the host loops, and in this
model the core has its turn before the next read (the model's choice, log entry 9). After it the host's value has bit 0
clear and the command has completed. -/
def Obligations.WaitEndsAfterCompletion : Prop :=
  ∀ (s : State) (rest : List Event), s.pending = .wait :: rest →
    (s.run = .idle → ∃ v : Word, v.getLsbD 0 = false ∧ step s = .next { s with pending := rest, rdata := v }) ∧
    (∀ l raced, s.run = .busy l raced →
      ∃ (t : State) (v : Word), Host.Core.run Sys2Proof.core 3 s = .next t ∧ t.run = .idle ∧
        t.status.done = true ∧ t.pending = rest ∧ t.rdata = v ∧ v.getLsbD 0 = false ∧ v.getLsbD 1 = true)
end

