-- ==== Sys2Proof/Laws/State.lean ====
section
/-! SUPPORT. One lemma per field per named update of the state, so that no proof unfolds a record update. -/

namespace Sys2Proof.Machine

/-! ### clearError: the return from the error state -/

@[simp] theorem State.clearError_run (s : State) : (s.clearError).run = s.run := rfl
@[simp] theorem State.clearError_status (s : State) : (s.clearError).status = { s.status with err := false, ecode := 0#4 } := rfl
@[simp] theorem State.clearError_crcIn (s : State) : (s.clearError).crcIn = s.crcIn := rfl
@[simp] theorem State.clearError_addrLo (s : State) : (s.clearError).addrLo = s.addrLo := rfl
@[simp] theorem State.clearError_addrHi (s : State) : (s.clearError).addrHi = s.addrHi := rfl
@[simp] theorem State.clearError_lenLo (s : State) : (s.clearError).lenLo = s.lenLo := rfl
@[simp] theorem State.clearError_lenHi (s : State) : (s.clearError).lenHi = s.lenHi := rfl
@[simp] theorem State.clearError_dist (s : State) : (s.clearError).dist = s.dist := rfl
@[simp] theorem State.clearError_result (s : State) : (s.clearError).result = s.result := rfl
@[simp] theorem State.clearError_einfoLo (s : State) : (s.clearError).einfoLo = 0#32 := rfl
@[simp] theorem State.clearError_einfoHi (s : State) : (s.clearError).einfoHi = 0#32 := rfl
@[simp] theorem State.clearError_tblmem (s : State) : (s.clearError).tblmem = s.tblmem := rfl
@[simp] theorem State.clearError_mem (s : State) : (s.clearError).mem = s.mem := rfl
@[simp] theorem State.clearError_platform (s : State) : (s.clearError).platform = s.platform := rfl
@[simp] theorem State.clearError_pending (s : State) : (s.clearError).pending = s.pending := rfl
@[simp] theorem State.clearError_rdata (s : State) : (s.clearError).rdata = s.rdata := rfl
@[simp] theorem State.clearError_draws (s : State) : (s.clearError).draws = s.draws := rfl

/-! ### clearDone -/

@[simp] theorem State.clearDone_run (s : State) : (s.clearDone).run = s.run := rfl
@[simp] theorem State.clearDone_status (s : State) : (s.clearDone).status = { s.status with done := false } := rfl
@[simp] theorem State.clearDone_crcIn (s : State) : (s.clearDone).crcIn = s.crcIn := rfl
@[simp] theorem State.clearDone_addrLo (s : State) : (s.clearDone).addrLo = s.addrLo := rfl
@[simp] theorem State.clearDone_addrHi (s : State) : (s.clearDone).addrHi = s.addrHi := rfl
@[simp] theorem State.clearDone_lenLo (s : State) : (s.clearDone).lenLo = s.lenLo := rfl
@[simp] theorem State.clearDone_lenHi (s : State) : (s.clearDone).lenHi = s.lenHi := rfl
@[simp] theorem State.clearDone_dist (s : State) : (s.clearDone).dist = s.dist := rfl
@[simp] theorem State.clearDone_result (s : State) : (s.clearDone).result = s.result := rfl
@[simp] theorem State.clearDone_einfoLo (s : State) : (s.clearDone).einfoLo = s.einfoLo := rfl
@[simp] theorem State.clearDone_einfoHi (s : State) : (s.clearDone).einfoHi = s.einfoHi := rfl
@[simp] theorem State.clearDone_tblmem (s : State) : (s.clearDone).tblmem = s.tblmem := rfl
@[simp] theorem State.clearDone_mem (s : State) : (s.clearDone).mem = s.mem := rfl
@[simp] theorem State.clearDone_platform (s : State) : (s.clearDone).platform = s.platform := rfl
@[simp] theorem State.clearDone_pending (s : State) : (s.clearDone).pending = s.pending := rfl
@[simp] theorem State.clearDone_rdata (s : State) : (s.clearDone).rdata = s.rdata := rfl
@[simp] theorem State.clearDone_draws (s : State) : (s.clearDone).draws = s.draws := rfl

/-! ### setResult -/

@[simp] theorem State.setResult_run (s : State) (v : Word) : (s.setResult v).run = s.run := rfl
@[simp] theorem State.setResult_status (s : State) (v : Word) : (s.setResult v).status = s.status := rfl
@[simp] theorem State.setResult_crcIn (s : State) (v : Word) : (s.setResult v).crcIn = s.crcIn := rfl
@[simp] theorem State.setResult_addrLo (s : State) (v : Word) : (s.setResult v).addrLo = s.addrLo := rfl
@[simp] theorem State.setResult_addrHi (s : State) (v : Word) : (s.setResult v).addrHi = s.addrHi := rfl
@[simp] theorem State.setResult_lenLo (s : State) (v : Word) : (s.setResult v).lenLo = s.lenLo := rfl
@[simp] theorem State.setResult_lenHi (s : State) (v : Word) : (s.setResult v).lenHi = s.lenHi := rfl
@[simp] theorem State.setResult_dist (s : State) (v : Word) : (s.setResult v).dist = s.dist := rfl
@[simp] theorem State.setResult_result (s : State) (v : Word) : (s.setResult v).result = v := rfl
@[simp] theorem State.setResult_einfoLo (s : State) (v : Word) : (s.setResult v).einfoLo = s.einfoLo := rfl
@[simp] theorem State.setResult_einfoHi (s : State) (v : Word) : (s.setResult v).einfoHi = s.einfoHi := rfl
@[simp] theorem State.setResult_tblmem (s : State) (v : Word) : (s.setResult v).tblmem = s.tblmem := rfl
@[simp] theorem State.setResult_mem (s : State) (v : Word) : (s.setResult v).mem = s.mem := rfl
@[simp] theorem State.setResult_platform (s : State) (v : Word) : (s.setResult v).platform = s.platform := rfl
@[simp] theorem State.setResult_pending (s : State) (v : Word) : (s.setResult v).pending = s.pending := rfl
@[simp] theorem State.setResult_rdata (s : State) (v : Word) : (s.setResult v).rdata = s.rdata := rfl
@[simp] theorem State.setResult_draws (s : State) (v : Word) : (s.setResult v).draws = s.draws := rfl

/-! ### drawResult -/

@[simp] theorem State.drawResult_run (s : State) : (s.drawResult).run = s.run := rfl
@[simp] theorem State.drawResult_status (s : State) : (s.drawResult).status = s.status := rfl
@[simp] theorem State.drawResult_crcIn (s : State) : (s.drawResult).crcIn = s.crcIn := rfl
@[simp] theorem State.drawResult_addrLo (s : State) : (s.drawResult).addrLo = s.addrLo := rfl
@[simp] theorem State.drawResult_addrHi (s : State) : (s.drawResult).addrHi = s.addrHi := rfl
@[simp] theorem State.drawResult_lenLo (s : State) : (s.drawResult).lenLo = s.lenLo := rfl
@[simp] theorem State.drawResult_lenHi (s : State) : (s.drawResult).lenHi = s.lenHi := rfl
@[simp] theorem State.drawResult_dist (s : State) : (s.drawResult).dist = s.dist := rfl
@[simp] theorem State.drawResult_result (s : State) : (s.drawResult).result = Config.freeWord s.draws := rfl
@[simp] theorem State.drawResult_einfoLo (s : State) : (s.drawResult).einfoLo = s.einfoLo := rfl
@[simp] theorem State.drawResult_einfoHi (s : State) : (s.drawResult).einfoHi = s.einfoHi := rfl
@[simp] theorem State.drawResult_tblmem (s : State) : (s.drawResult).tblmem = s.tblmem := rfl
@[simp] theorem State.drawResult_mem (s : State) : (s.drawResult).mem = s.mem := rfl
@[simp] theorem State.drawResult_platform (s : State) : (s.drawResult).platform = s.platform := rfl
@[simp] theorem State.drawResult_pending (s : State) : (s.drawResult).pending = s.pending := rfl
@[simp] theorem State.drawResult_rdata (s : State) : (s.drawResult).rdata = s.rdata := rfl
@[simp] theorem State.drawResult_draws (s : State) : (s.drawResult).draws = s.draws + 1 := rfl

/-! ### accept: the end of issue -/

@[simp] theorem State.accept_run (s : State) (l : Latch) : (s.accept l).run = .busy l false := rfl
@[simp] theorem State.accept_status (s : State) (l : Latch) : (s.accept l).status = { s.status with done := false } := rfl
@[simp] theorem State.accept_crcIn (s : State) (l : Latch) : (s.accept l).crcIn = s.crcIn := rfl
@[simp] theorem State.accept_addrLo (s : State) (l : Latch) : (s.accept l).addrLo = s.addrLo := rfl
@[simp] theorem State.accept_addrHi (s : State) (l : Latch) : (s.accept l).addrHi = s.addrHi := rfl
@[simp] theorem State.accept_lenLo (s : State) (l : Latch) : (s.accept l).lenLo = s.lenLo := rfl
@[simp] theorem State.accept_lenHi (s : State) (l : Latch) : (s.accept l).lenHi = s.lenHi := rfl
@[simp] theorem State.accept_dist (s : State) (l : Latch) : (s.accept l).dist = s.dist := rfl
@[simp] theorem State.accept_result (s : State) (l : Latch) : (s.accept l).result = s.result := rfl
@[simp] theorem State.accept_einfoLo (s : State) (l : Latch) : (s.accept l).einfoLo = s.einfoLo := rfl
@[simp] theorem State.accept_einfoHi (s : State) (l : Latch) : (s.accept l).einfoHi = s.einfoHi := rfl
@[simp] theorem State.accept_tblmem (s : State) (l : Latch) : (s.accept l).tblmem = s.tblmem := rfl
@[simp] theorem State.accept_mem (s : State) (l : Latch) : (s.accept l).mem = s.mem := rfl
@[simp] theorem State.accept_platform (s : State) (l : Latch) : (s.accept l).platform = s.platform := rfl
@[simp] theorem State.accept_pending (s : State) (l : Latch) : (s.accept l).pending = s.pending := rfl
@[simp] theorem State.accept_rdata (s : State) (l : Latch) : (s.accept l).rdata = s.rdata := rfl
@[simp] theorem State.accept_draws (s : State) (l : Latch) : (s.accept l).draws = s.draws := rfl

/-! ### retire: the end of completion -/

@[simp] theorem State.retire_run (s : State) : (s.retire).run = .idle := rfl
@[simp] theorem State.retire_status (s : State) : (s.retire).status = { s.status with done := true } := rfl
@[simp] theorem State.retire_crcIn (s : State) : (s.retire).crcIn = s.crcIn := rfl
@[simp] theorem State.retire_addrLo (s : State) : (s.retire).addrLo = s.addrLo := rfl
@[simp] theorem State.retire_addrHi (s : State) : (s.retire).addrHi = s.addrHi := rfl
@[simp] theorem State.retire_lenLo (s : State) : (s.retire).lenLo = s.lenLo := rfl
@[simp] theorem State.retire_lenHi (s : State) : (s.retire).lenHi = s.lenHi := rfl
@[simp] theorem State.retire_dist (s : State) : (s.retire).dist = s.dist := rfl
@[simp] theorem State.retire_result (s : State) : (s.retire).result = s.result := rfl
@[simp] theorem State.retire_einfoLo (s : State) : (s.retire).einfoLo = s.einfoLo := rfl
@[simp] theorem State.retire_einfoHi (s : State) : (s.retire).einfoHi = s.einfoHi := rfl
@[simp] theorem State.retire_tblmem (s : State) : (s.retire).tblmem = s.tblmem := rfl
@[simp] theorem State.retire_mem (s : State) : (s.retire).mem = s.mem := rfl
@[simp] theorem State.retire_platform (s : State) : (s.retire).platform = s.platform := rfl
@[simp] theorem State.retire_pending (s : State) : (s.retire).pending = s.pending := rfl
@[simp] theorem State.retire_rdata (s : State) : (s.retire).rdata = s.rdata := rfl
@[simp] theorem State.retire_draws (s : State) : (s.retire).draws = s.draws := rfl

/-! ### bind: the host's read returned -/

@[simp] theorem State.bind_run (s : State) (v : Word) : (s.bind v).run = s.run := rfl
@[simp] theorem State.bind_status (s : State) (v : Word) : (s.bind v).status = s.status := rfl
@[simp] theorem State.bind_crcIn (s : State) (v : Word) : (s.bind v).crcIn = s.crcIn := rfl
@[simp] theorem State.bind_addrLo (s : State) (v : Word) : (s.bind v).addrLo = s.addrLo := rfl
@[simp] theorem State.bind_addrHi (s : State) (v : Word) : (s.bind v).addrHi = s.addrHi := rfl
@[simp] theorem State.bind_lenLo (s : State) (v : Word) : (s.bind v).lenLo = s.lenLo := rfl
@[simp] theorem State.bind_lenHi (s : State) (v : Word) : (s.bind v).lenHi = s.lenHi := rfl
@[simp] theorem State.bind_dist (s : State) (v : Word) : (s.bind v).dist = s.dist := rfl
@[simp] theorem State.bind_result (s : State) (v : Word) : (s.bind v).result = s.result := rfl
@[simp] theorem State.bind_einfoLo (s : State) (v : Word) : (s.bind v).einfoLo = s.einfoLo := rfl
@[simp] theorem State.bind_einfoHi (s : State) (v : Word) : (s.bind v).einfoHi = s.einfoHi := rfl
@[simp] theorem State.bind_tblmem (s : State) (v : Word) : (s.bind v).tblmem = s.tblmem := rfl
@[simp] theorem State.bind_mem (s : State) (v : Word) : (s.bind v).mem = s.mem := rfl
@[simp] theorem State.bind_platform (s : State) (v : Word) : (s.bind v).platform = s.platform := rfl
@[simp] theorem State.bind_pending (s : State) (v : Word) : (s.bind v).pending = s.pending := rfl
@[simp] theorem State.bind_rdata (s : State) (v : Word) : (s.bind v).rdata = v := rfl
@[simp] theorem State.bind_draws (s : State) (v : Word) : (s.bind v).draws = s.draws := rfl

/-! ### bindDraw -/

@[simp] theorem State.bindDraw_run (s : State) : (s.bindDraw).run = s.run := rfl
@[simp] theorem State.bindDraw_status (s : State) : (s.bindDraw).status = s.status := rfl
@[simp] theorem State.bindDraw_crcIn (s : State) : (s.bindDraw).crcIn = s.crcIn := rfl
@[simp] theorem State.bindDraw_addrLo (s : State) : (s.bindDraw).addrLo = s.addrLo := rfl
@[simp] theorem State.bindDraw_addrHi (s : State) : (s.bindDraw).addrHi = s.addrHi := rfl
@[simp] theorem State.bindDraw_lenLo (s : State) : (s.bindDraw).lenLo = s.lenLo := rfl
@[simp] theorem State.bindDraw_lenHi (s : State) : (s.bindDraw).lenHi = s.lenHi := rfl
@[simp] theorem State.bindDraw_dist (s : State) : (s.bindDraw).dist = s.dist := rfl
@[simp] theorem State.bindDraw_result (s : State) : (s.bindDraw).result = s.result := rfl
@[simp] theorem State.bindDraw_einfoLo (s : State) : (s.bindDraw).einfoLo = s.einfoLo := rfl
@[simp] theorem State.bindDraw_einfoHi (s : State) : (s.bindDraw).einfoHi = s.einfoHi := rfl
@[simp] theorem State.bindDraw_tblmem (s : State) : (s.bindDraw).tblmem = s.tblmem := rfl
@[simp] theorem State.bindDraw_mem (s : State) : (s.bindDraw).mem = s.mem := rfl
@[simp] theorem State.bindDraw_platform (s : State) : (s.bindDraw).platform = s.platform := rfl
@[simp] theorem State.bindDraw_pending (s : State) : (s.bindDraw).pending = s.pending := rfl
@[simp] theorem State.bindDraw_rdata (s : State) : (s.bindDraw).rdata = Config.freeWord s.draws := rfl
@[simp] theorem State.bindDraw_draws (s : State) : (s.bindDraw).draws = s.draws + 1 := rfl

/-! ### storeByte: a host store -/

@[simp] theorem State.storeByte_run (s : State) (a : Addr) (v : Byte) : (s.storeByte a v).run = s.run.noteStore a := rfl
@[simp] theorem State.storeByte_status (s : State) (a : Addr) (v : Byte) : (s.storeByte a v).status = s.status := rfl
@[simp] theorem State.storeByte_crcIn (s : State) (a : Addr) (v : Byte) : (s.storeByte a v).crcIn = s.crcIn := rfl
@[simp] theorem State.storeByte_addrLo (s : State) (a : Addr) (v : Byte) : (s.storeByte a v).addrLo = s.addrLo := rfl
@[simp] theorem State.storeByte_addrHi (s : State) (a : Addr) (v : Byte) : (s.storeByte a v).addrHi = s.addrHi := rfl
@[simp] theorem State.storeByte_lenLo (s : State) (a : Addr) (v : Byte) : (s.storeByte a v).lenLo = s.lenLo := rfl
@[simp] theorem State.storeByte_lenHi (s : State) (a : Addr) (v : Byte) : (s.storeByte a v).lenHi = s.lenHi := rfl
@[simp] theorem State.storeByte_dist (s : State) (a : Addr) (v : Byte) : (s.storeByte a v).dist = s.dist := rfl
@[simp] theorem State.storeByte_result (s : State) (a : Addr) (v : Byte) : (s.storeByte a v).result = s.result := rfl
@[simp] theorem State.storeByte_einfoLo (s : State) (a : Addr) (v : Byte) : (s.storeByte a v).einfoLo = s.einfoLo := rfl
@[simp] theorem State.storeByte_einfoHi (s : State) (a : Addr) (v : Byte) : (s.storeByte a v).einfoHi = s.einfoHi := rfl
@[simp] theorem State.storeByte_tblmem (s : State) (a : Addr) (v : Byte) : (s.storeByte a v).tblmem = s.tblmem := rfl
@[simp] theorem State.storeByte_mem (s : State) (a : Addr) (v : Byte) : (s.storeByte a v).mem = s.mem.write a.toNat v := rfl
@[simp] theorem State.storeByte_platform (s : State) (a : Addr) (v : Byte) : (s.storeByte a v).platform = s.platform := rfl
@[simp] theorem State.storeByte_pending (s : State) (a : Addr) (v : Byte) : (s.storeByte a v).pending = s.pending := rfl
@[simp] theorem State.storeByte_rdata (s : State) (a : Addr) (v : Byte) : (s.storeByte a v).rdata = s.rdata := rfl
@[simp] theorem State.storeByte_draws (s : State) (a : Addr) (v : Byte) : (s.storeByte a v).draws = s.draws := rfl

/-! ### advance -/

@[simp] theorem State.advance_run (s : State) : (s.advance).run = s.run := rfl
@[simp] theorem State.advance_status (s : State) : (s.advance).status = s.status := rfl
@[simp] theorem State.advance_crcIn (s : State) : (s.advance).crcIn = s.crcIn := rfl
@[simp] theorem State.advance_addrLo (s : State) : (s.advance).addrLo = s.addrLo := rfl
@[simp] theorem State.advance_addrHi (s : State) : (s.advance).addrHi = s.addrHi := rfl
@[simp] theorem State.advance_lenLo (s : State) : (s.advance).lenLo = s.lenLo := rfl
@[simp] theorem State.advance_lenHi (s : State) : (s.advance).lenHi = s.lenHi := rfl
@[simp] theorem State.advance_dist (s : State) : (s.advance).dist = s.dist := rfl
@[simp] theorem State.advance_result (s : State) : (s.advance).result = s.result := rfl
@[simp] theorem State.advance_einfoLo (s : State) : (s.advance).einfoLo = s.einfoLo := rfl
@[simp] theorem State.advance_einfoHi (s : State) : (s.advance).einfoHi = s.einfoHi := rfl
@[simp] theorem State.advance_tblmem (s : State) : (s.advance).tblmem = s.tblmem := rfl
@[simp] theorem State.advance_mem (s : State) : (s.advance).mem = s.mem := rfl
@[simp] theorem State.advance_platform (s : State) : (s.advance).platform = s.platform := rfl
@[simp] theorem State.advance_pending (s : State) : (s.advance).pending = s.pending.tail := rfl
@[simp] theorem State.advance_rdata (s : State) : (s.advance).rdata = s.rdata := rfl
@[simp] theorem State.advance_draws (s : State) : (s.advance).draws = s.draws := rfl

/-! ### afterReset -/

@[simp] theorem State.afterReset_run (s : State) : (s.afterReset).run = State.reset.run := rfl
@[simp] theorem State.afterReset_status (s : State) : (s.afterReset).status = State.reset.status := rfl
@[simp] theorem State.afterReset_crcIn (s : State) : (s.afterReset).crcIn = State.reset.crcIn := rfl
@[simp] theorem State.afterReset_addrLo (s : State) : (s.afterReset).addrLo = State.reset.addrLo := rfl
@[simp] theorem State.afterReset_addrHi (s : State) : (s.afterReset).addrHi = State.reset.addrHi := rfl
@[simp] theorem State.afterReset_lenLo (s : State) : (s.afterReset).lenLo = State.reset.lenLo := rfl
@[simp] theorem State.afterReset_lenHi (s : State) : (s.afterReset).lenHi = State.reset.lenHi := rfl
@[simp] theorem State.afterReset_dist (s : State) : (s.afterReset).dist = State.reset.dist := rfl
@[simp] theorem State.afterReset_result (s : State) : (s.afterReset).result = State.reset.result := rfl
@[simp] theorem State.afterReset_einfoLo (s : State) : (s.afterReset).einfoLo = State.reset.einfoLo := rfl
@[simp] theorem State.afterReset_einfoHi (s : State) : (s.afterReset).einfoHi = State.reset.einfoHi := rfl
@[simp] theorem State.afterReset_tblmem (s : State) : (s.afterReset).tblmem = State.reset.tblmem := rfl
@[simp] theorem State.afterReset_mem (s : State) : (s.afterReset).mem = s.mem := rfl
@[simp] theorem State.afterReset_platform (s : State) : (s.afterReset).platform = s.platform := rfl
@[simp] theorem State.afterReset_pending (s : State) : (s.afterReset).pending = s.pending := rfl
@[simp] theorem State.afterReset_rdata (s : State) : (s.afterReset).rdata = s.rdata := rfl
@[simp] theorem State.afterReset_draws (s : State) : (s.afterReset).draws = s.draws := rfl

/-! ### raise: recording an error, and buildTable, whose effect depends on a flag -/

theorem State.raise_eq_self (s : State) (e : ErrorKind) (info : Addr) (h : s.status.err = true) : s.raise e info = s := by
  simp [State.raise, h]

theorem State.raise_of_clear (s : State) (e : ErrorKind) (info : Addr) (h : s.status.err = false) :
    s.raise e info = { s with
      status := { s.status with err := true, ecode := e.code }, einfoLo := loHalf info, einfoHi := hiHalf info } := by
  simp [State.raise, h]

@[simp] theorem State.raise_run (s : State) (e : ErrorKind) (info : Addr) : (s.raise e info).run = s.run := by
  unfold State.raise; split <;> rfl
@[simp] theorem State.raise_crcIn (s : State) (e : ErrorKind) (info : Addr) : (s.raise e info).crcIn = s.crcIn := by
  unfold State.raise; split <;> rfl
@[simp] theorem State.raise_addrLo (s : State) (e : ErrorKind) (info : Addr) : (s.raise e info).addrLo = s.addrLo := by
  unfold State.raise; split <;> rfl
@[simp] theorem State.raise_addrHi (s : State) (e : ErrorKind) (info : Addr) : (s.raise e info).addrHi = s.addrHi := by
  unfold State.raise; split <;> rfl
@[simp] theorem State.raise_lenLo (s : State) (e : ErrorKind) (info : Addr) : (s.raise e info).lenLo = s.lenLo := by
  unfold State.raise; split <;> rfl
@[simp] theorem State.raise_lenHi (s : State) (e : ErrorKind) (info : Addr) : (s.raise e info).lenHi = s.lenHi := by
  unfold State.raise; split <;> rfl
@[simp] theorem State.raise_dist (s : State) (e : ErrorKind) (info : Addr) : (s.raise e info).dist = s.dist := by
  unfold State.raise; split <;> rfl
@[simp] theorem State.raise_result (s : State) (e : ErrorKind) (info : Addr) : (s.raise e info).result = s.result := by
  unfold State.raise; split <;> rfl
@[simp] theorem State.raise_tblmem (s : State) (e : ErrorKind) (info : Addr) : (s.raise e info).tblmem = s.tblmem := by
  unfold State.raise; split <;> rfl
@[simp] theorem State.raise_mem (s : State) (e : ErrorKind) (info : Addr) : (s.raise e info).mem = s.mem := by
  unfold State.raise; split <;> rfl
@[simp] theorem State.raise_platform (s : State) (e : ErrorKind) (info : Addr) : (s.raise e info).platform = s.platform := by
  unfold State.raise; split <;> rfl
@[simp] theorem State.raise_pending (s : State) (e : ErrorKind) (info : Addr) : (s.raise e info).pending = s.pending := by
  unfold State.raise; split <;> rfl
@[simp] theorem State.raise_rdata (s : State) (e : ErrorKind) (info : Addr) : (s.raise e info).rdata = s.rdata := by
  unfold State.raise; split <;> rfl
@[simp] theorem State.raise_draws (s : State) (e : ErrorKind) (info : Addr) : (s.raise e info).draws = s.draws := by
  unfold State.raise; split <;> rfl
@[simp] theorem State.raise_err (s : State) (e : ErrorKind) (info : Addr) : (s.raise e info).status.err = true := by
  unfold State.raise; split <;> simp_all
@[simp] theorem State.raise_done (s : State) (e : ErrorKind) (info : Addr) :
    (s.raise e info).status.done = s.status.done := by
  unfold State.raise; split <;> rfl
@[simp] theorem State.raise_tbl (s : State) (e : ErrorKind) (info : Addr) :
    (s.raise e info).status.tbl = s.status.tbl := by
  unfold State.raise; split <;> rfl

theorem State.buildTable_eq_self (s : State) (h : s.status.tbl = true) : s.buildTable = s := by
  simp [State.buildTable, h]

theorem State.buildTable_of_unbuilt (s : State) (h : s.status.tbl = false) :
    s.buildTable = { s with tblmem := tableImage, status := { s.status with tbl := true } } := by
  simp [State.buildTable, h]

@[simp] theorem State.buildTable_run (s : State) : s.buildTable.run = s.run := by
  unfold State.buildTable; split <;> rfl
@[simp] theorem State.buildTable_crcIn (s : State) : s.buildTable.crcIn = s.crcIn := by
  unfold State.buildTable; split <;> rfl
@[simp] theorem State.buildTable_addrLo (s : State) : s.buildTable.addrLo = s.addrLo := by
  unfold State.buildTable; split <;> rfl
@[simp] theorem State.buildTable_addrHi (s : State) : s.buildTable.addrHi = s.addrHi := by
  unfold State.buildTable; split <;> rfl
@[simp] theorem State.buildTable_lenLo (s : State) : s.buildTable.lenLo = s.lenLo := by
  unfold State.buildTable; split <;> rfl
@[simp] theorem State.buildTable_lenHi (s : State) : s.buildTable.lenHi = s.lenHi := by
  unfold State.buildTable; split <;> rfl
@[simp] theorem State.buildTable_dist (s : State) : s.buildTable.dist = s.dist := by
  unfold State.buildTable; split <;> rfl
@[simp] theorem State.buildTable_result (s : State) : s.buildTable.result = s.result := by
  unfold State.buildTable; split <;> rfl
@[simp] theorem State.buildTable_einfoLo (s : State) : s.buildTable.einfoLo = s.einfoLo := by
  unfold State.buildTable; split <;> rfl
@[simp] theorem State.buildTable_einfoHi (s : State) : s.buildTable.einfoHi = s.einfoHi := by
  unfold State.buildTable; split <;> rfl
@[simp] theorem State.buildTable_mem (s : State) : s.buildTable.mem = s.mem := by
  unfold State.buildTable; split <;> rfl
@[simp] theorem State.buildTable_platform (s : State) : s.buildTable.platform = s.platform := by
  unfold State.buildTable; split <;> rfl
@[simp] theorem State.buildTable_pending (s : State) : s.buildTable.pending = s.pending := by
  unfold State.buildTable; split <;> rfl
@[simp] theorem State.buildTable_rdata (s : State) : s.buildTable.rdata = s.rdata := by
  unfold State.buildTable; split <;> rfl
@[simp] theorem State.buildTable_draws (s : State) : s.buildTable.draws = s.draws := by
  unfold State.buildTable; split <;> rfl
@[simp] theorem State.buildTable_tbl (s : State) : s.buildTable.status.tbl = true := by
  unfold State.buildTable; split <;> simp_all
@[simp] theorem State.buildTable_err (s : State) : s.buildTable.status.err = s.status.err := by
  unfold State.buildTable; split <;> rfl
@[simp] theorem State.buildTable_ecode (s : State) : s.buildTable.status.ecode = s.status.ecode := by
  unfold State.buildTable; split <;> rfl
@[simp] theorem State.buildTable_done (s : State) : s.buildTable.status.done = s.status.done := by
  unfold State.buildTable; split <;> rfl

/-! ### BUSY is that LAT is held -/

theorem State.busy_of_idle (s : State) (h : s.run = .idle) : s.busy = false := by simp [State.busy, h]

theorem State.busy_of_busy (s : State) (l : Latch) (raced : Bool) (h : s.run = .busy l raced) : s.busy = true := by
  simp [State.busy, h]

theorem State.busy_iff (s : State) : s.busy = true ↔ ∃ l raced, s.run = .busy l raced := by
  unfold State.busy
  cases s.run <;> simp

@[simp] theorem State.accept_busy (s : State) (l : Latch) : (s.accept l).busy = true := rfl
@[simp] theorem State.retire_busy (s : State) : s.retire.busy = false := rfl

end Sys2Proof.Machine
end

