-- ==== Sys2Proof/Laws/Ops.lean ====
section
/-! SUPPORT. One lemma per shared operation that says what it can do: memory, the table store, the buffer read, the two
steps of a command, and where a host access goes. -/

namespace Sys2Proof.Machine

/-! ### Memory -/

theorem Memory.wf_cons (a : Nat) (b : Byte) (m : Memory) :
    Memory.wf ((a, b) :: m) = true ↔
      a < 2 ^ 64 ∧ b ≠ Memory.unlisted ∧ (∀ c ∈ m, a < c.1) ∧ Memory.wf m = true := by
  simp [Memory.wf, and_assoc]

theorem Memory.read_of_lt (m : Memory) (x : Nat) (h : ∀ c ∈ m, x < c.1) : Memory.read m x = Memory.unlisted := by
  induction m with
  | nil => rfl
  | cons c m ih =>
    have hc := h c (by simp)
    have hm := ih fun d hd => h d (by simp [hd])
    obtain ⟨a, b⟩ := c
    have hne : x ≠ a := by simp only at hc; omega
    simp [Memory.read, hne, hm]

/-- Every entry of memory after a store is an old one or the stored one. -/
theorem Memory.mem_write (m : Memory) (x : Nat) (v : Byte) (c : Host.Cell) (h : c ∈ Memory.write m x v) :
    c ∈ m ∨ c.1 = x := by
  induction m with
  | nil =>
    simp only [Memory.write] at h
    split at h <;> simp_all
  | cons d m ih =>
    obtain ⟨a, b⟩ := d
    simp only [Memory.write] at h
    split at h
    · split at h
      · exact .inl h
      · rcases List.mem_cons.mp h with rfl | h
        · exact .inr rfl
        · exact .inl h
    · split at h
      · split at h
        · exact .inl (List.mem_cons_of_mem _ h)
        · rcases List.mem_cons.mp h with rfl | h
          · rename_i hx _; exact .inr hx.symm
          · exact .inl (List.mem_cons_of_mem _ h)
      · rcases List.mem_cons.mp h with rfl | h
        · exact .inl (by simp)
        · exact (ih h).imp (List.mem_cons_of_mem _) id

/-- A store keeps the canonical form. -/
theorem Memory.wf_write (m : Memory) (x : Nat) (v : Byte) (hx : x < 2 ^ 64) (h : Memory.wf m = true) :
    Memory.wf (Memory.write m x v) = true := by
  induction m with
  | nil =>
    simp only [Memory.write]
    split
    · rfl
    · rename_i hv; simpa [Memory.wf, hv] using hx
  | cons c m ih =>
    obtain ⟨a, b⟩ := c
    obtain ⟨ha, hb, hm, hw⟩ := (Memory.wf_cons a b m).mp h
    simp only [Memory.write]
    split
    · split
      · exact h
      · rename_i hlt hv
        refine (Memory.wf_cons _ _ _).mpr ⟨hx, hv, fun c hc => ?_, h⟩
        rcases List.mem_cons.mp hc with rfl | hc
        · exact hlt
        · exact Nat.lt_trans hlt (hm c hc)
    · split
      · split
        · exact hw
        · rename_i hv
          exact (Memory.wf_cons _ _ _).mpr ⟨ha, hv, hm, hw⟩
      · rename_i hlt hne
        refine (Memory.wf_cons _ _ _).mpr ⟨ha, hb, fun c hc => ?_, ih hw⟩
        rcases Memory.mem_write m x v c hc with hc | hc
        · exact hm c hc
        · omega

/-- The byte stored is the byte read back. -/
theorem Memory.read_write_same (m : Memory) (x : Nat) (v : Byte) (h : Memory.wf m = true) :
    Memory.read (Memory.write m x v) x = v := by
  induction m with
  | nil =>
    simp only [Memory.write]
    split
    · rename_i hv; simp [Memory.read, hv]
    · simp [Memory.read]
  | cons c m ih =>
    obtain ⟨a, b⟩ := c
    obtain ⟨_, _, hm, hw⟩ := (Memory.wf_cons a b m).mp h
    simp only [Memory.write]
    split
    · rename_i hlt
      split
      · rename_i hv
        rw [hv]
        refine Memory.read_of_lt _ _ fun c hc => ?_
        rcases List.mem_cons.mp hc with rfl | hc
        · exact hlt
        · exact Nat.lt_trans hlt (hm c hc)
      · simp [Memory.read]
    · split
      · rename_i hx
        split
        · rename_i hv
          rw [hv]
          exact Memory.read_of_lt _ _ fun c hc => hx ▸ hm c hc
        · simp [Memory.read, hx]
      · rename_i hne
        simp [Memory.read, hne, ih hw]

/-- A store leaves every other byte alone. -/
theorem Memory.read_write_other (m : Memory) (x y : Nat) (v : Byte) (hne : y ≠ x) (h : Memory.wf m = true) :
    Memory.read (Memory.write m x v) y = Memory.read m y := by
  induction m with
  | nil =>
    simp only [Memory.write]
    split
    · rfl
    · simp [Memory.read, hne]
  | cons c m ih =>
    obtain ⟨a, b⟩ := c
    obtain ⟨_, _, hm, hw⟩ := (Memory.wf_cons a b m).mp h
    simp only [Memory.write]
    split
    · split
      · rfl
      · simp [Memory.read, hne]
    · split
      · rename_i hx
        have hya : y ≠ a := hx ▸ hne
        split
        · simp [Memory.read, hya]
        · simp [Memory.read, hya]
      · by_cases hya : y = a
        · simp [Memory.read, hya]
        · simp [Memory.read, hya, ih hw]

/-! ### The table store -/

/-- The built store holds `T` (10_state.md R40). -/
theorem tableImage_entry (k : Nat) (i : Byte) (h : k < 32) : TableStore.entry tableImage k i = T k i := by
  have hi : i.toNat < 256 := i.isLt
  simp [TableStore.entry, tableImage, sliceImage, Config.slices, Config.sliceEntries, List.getD, h, hi]

/-- After the lazy build the store holds the table, whatever it held before (40_common.md R105). -/
theorem State.buildTable_tblmem (s : State) (h : s.tableOk) : s.buildTable.tblmem = tableImage := by
  unfold State.buildTable
  split
  · rename_i ht; exact h ht
  · rfl

/-- After the lazy build the engines read `T`. -/
theorem State.buildTable_table (s : State) (h : s.tableOk) (k : Nat) (i : Byte) (hk : k < 32) :
    s.buildTable.table k i = T k i := by
  simp only [State.table, State.buildTable_tblmem s h]
  exact tableImage_entry k i hk

/-! ### The buffer read -/

@[simp] theorem Memory.length_readBytes (m : Memory) (a n : Nat) : (Memory.readBytes m a n).length = n := by
  induction n generalizing a with
  | zero => rfl
  | succ n ih => simp [Memory.readBytes, ih]

/-- A read of no byte reads nothing and cannot fault (40_common.md R109). -/
@[simp] theorem readBuf_zero (p : Platform) (m : Memory) (a : Addr) : readBuf p m a 0#64 = .bytes [] := rfl

/-! ### The two steps of a command -/

theorem State.command_idle (s : State) (latch : State → Latch) (outcome : State → Latch → CmdOutcome)
    (h : s.run = .idle) : s.command latch outcome = .next (s.accept (latch s)) := by
  simp [State.command, h]

theorem State.command_busy (s : State) (latch : State → Latch) (outcome : State → Latch → CmdOutcome)
    (l : Latch) (raced : Bool) (h : s.run = .busy l raced) :
    s.command latch outcome = .next (s.buildTable.finish raced (outcome s.buildTable l)) := by
  simp [State.command, h]

/-- Everything a command can do: accept, or build the table and finish. -/
theorem State.command_cases (s t : State) (latch : State → Latch) (outcome : State → Latch → CmdOutcome)
    (h : s.command latch outcome = .next t) :
    (s.run = .idle ∧ t = s.accept (latch s)) ∨
    (∃ l raced, s.run = .busy l raced ∧ t = s.buildTable.finish raced (outcome s.buildTable l)) := by
  unfold State.command at h
  split at h
  · rename_i hr; exact .inl ⟨hr, by simpa using h.symm⟩
  · rename_i l raced hr; exact .inr ⟨l, raced, hr, by simpa using h.symm⟩

/-- What an outcome leaves: one of four states, each retired. -/
theorem State.finish_cases (s : State) (raced : Bool) (o : CmdOutcome) :
    (∃ r, o = .value r ∧ raced = false ∧ s.finish raced o = (s.setResult r).retire) ∨
    (∃ r, o = .value r ∧ raced = true ∧ s.finish raced o = s.drawResult.retire) ∨
    (∃ a, o = .memFault a ∧ s.finish raced o = ((s.raise .memFault a).drawResult).retire) ∨
    (o = .noResult ∧ s.finish raced o = s.retire) := by
  cases o with
  | value r => cases raced <;> simp [State.finish]
  | memFault a => exact .inr (.inr (.inl ⟨a, rfl, rfl⟩))
  | noResult => exact .inr (.inr (.inr ⟨rfl, rfl⟩))

/-- A finished command leaves the argument registers, memory, the platform, the schedule and the host's value alone. -/
theorem State.finish_frame (s : State) (raced : Bool) (o : CmdOutcome) :
    (s.finish raced o).run = .idle ∧ (s.finish raced o).status.done = true ∧
    (s.finish raced o).status.tbl = s.status.tbl ∧ (s.finish raced o).tblmem = s.tblmem ∧
    (s.finish raced o).crcIn = s.crcIn ∧ (s.finish raced o).addrLo = s.addrLo ∧ (s.finish raced o).addrHi = s.addrHi ∧
    (s.finish raced o).lenLo = s.lenLo ∧ (s.finish raced o).lenHi = s.lenHi ∧ (s.finish raced o).dist = s.dist ∧
    (s.finish raced o).mem = s.mem ∧ (s.finish raced o).platform = s.platform ∧
    (s.finish raced o).pending = s.pending ∧ (s.finish raced o).rdata = s.rdata := by
  cases o with
  | value r => cases raced <;> simp [State.finish]
  | memFault a => simp [State.finish]
  | noResult => simp [State.finish]

/-! ### Where a host access goes -/

/-- The aligned 32-bit access at a window offset reaches that offset (10_state.md R22). -/
theorem Platform.reach_csr (p : Platform) (off : Nat) (h : off < windowSize) (h4 : off % 4 = 0) :
    p.reach (p.coreBase + off) 4 = .csr off := by
  have h1 : ¬ (p.coreBase + off + 4 ≤ p.coreBase ∨ p.coreBase + windowSize ≤ p.coreBase + off) := by omega
  have h2 : ¬ (p.coreBase + off < p.coreBase ∨ (p.coreBase + off - p.coreBase) % 4 ≠ 0) := by
    rw [Nat.add_sub_cancel_left]; omega
  rw [Platform.reach, if_neg h1, if_neg (by simp), if_neg h2, Nat.add_sub_cancel_left]

/-- A step with a CMD write next is the issue of its word. -/
theorem step_cmdWrite (s : State) (w : Word) (rest : List Event) (h : s.pending = s.platform.cmdWrite w :: rest) :
    step s = issueWord s.advance w := by
  have hr := Platform.reach_csr s.platform cmdOffset (by decide) (by decide)
  have hc : csrAt cmdOffset = .cmd := by decide
  simp [step, nextTurn, h, Platform.cmdWrite, runEvent, hostWrite, hr, writeOffset, hc]

end Sys2Proof.Machine
end

