-- ==== Sys2Proof/Laws/Fold.lean ====
section
/-! SUPPORT. Small lemmas of the folds (40_common.md R107, R108; 43_slice_engines.md R160, R161; 44_finalize_dispatch.md
R190): one per case of each definition, and that a fold depends on the slices it reads only. -/

namespace Sys2Proof.Machine

@[simp] theorem foldBytes_nil (t : TableFn) (c : Word) : foldBytes t c [] = c := rfl

@[simp] theorem foldBytes_cons (t : TableFn) (c : Word) (b : Byte) (bs : List Byte) :
    foldBytes t c (b :: bs) = foldBytes t (stepByte t c b) bs := rfl

/-- The fold composes over concatenation (R108). -/
theorem foldBytes_append (t : TableFn) (c : Word) (as bs : List Byte) :
    foldBytes t c (as ++ bs) = foldBytes t (foldBytes t c as) bs := List.foldl_append

@[simp] theorem laneBytes_nil (c : Word) (j : Nat) : laneBytes c j [] = [] := rfl

@[simp] theorem laneBytes_cons (c : Word) (j : Nat) (b : Byte) (bs : List Byte) :
    laneBytes c j (b :: bs) = (b ^^^ laneByte c j) :: laneBytes c (j + 1) bs := rfl

@[simp] theorem length_laneBytes (c : Word) (j : Nat) (bs : List Byte) : (laneBytes c j bs).length = bs.length := by
  induction bs generalizing j with
  | nil => rfl
  | cons b bs ih => simp [ih]

/-- From lane 4 on a group's lanes are its bytes (R160). -/
theorem laneBytes_of_four_le (c : Word) (j : Nat) (bs : List Byte) (h : 4 ≤ j) : laneBytes c j bs = bs := by
  induction bs generalizing j with
  | nil => rfl
  | cons b bs ih =>
    have hj : laneByte c j = 0#8 := by
      unfold laneByte
      split <;> first | omega | rfl
    simp [hj, ih (j + 1) (by omega)]

@[simp] theorem sumLanes_nil (t : TableFn) (k : Nat) : sumLanes t k [] = 0#32 := by unfold sumLanes; rfl

@[simp] theorem sumLanes_cons (t : TableFn) (k : Nat) (h : Byte) (hs : List Byte) :
    sumLanes t k (h :: hs) = t (k - 1) h ^^^ sumLanes t (k - 1) hs := rfl

@[simp] theorem foldGroups_zero (t : TableFn) (k : Nat) (c : Word) (bs : List Byte) :
    foldGroups t k 0 c bs = foldBytes t c bs := rfl

@[simp] theorem foldGroups_succ (t : TableFn) (k n : Nat) (c : Word) (bs : List Byte) :
    foldGroups t k (n + 1) c bs = foldGroups t k n (groupStep t k c (bs.take k)) (bs.drop k) := rfl

/-- An input shorter than a group is all tail (R161). -/
theorem sliceFold_of_short (t : TableFn) (k : Nat) (c : Word) (bs : List Byte) (h : bs.length < k) :
    sliceFold t k c bs = foldBytes t c bs := by
  simp [sliceFold, Nat.div_eq_of_lt h]

@[simp] theorem foldLength_zero_fuel (t : TableFn) (c : Word) (n : Addr) : foldLength t 0 c n = c := rfl

/-- A length of 0 folds no byte (R190). -/
@[simp] theorem foldLength_zero (t : TableFn) (fuel : Nat) (c : Word) : foldLength t fuel c 0#64 = c := by
  cases fuel <;> rfl

theorem foldLength_succ (t : TableFn) (fuel : Nat) (c : Word) (n : Addr) (h : n ≠ 0#64) :
    foldLength t (fuel + 1) c n = foldLength t fuel (stepByte t c (n.extractLsb' 0 8)) (n >>> 8) := by
  simp [foldLength, h]

/-! ### A fold depends on the slices it reads only -/

theorem stepByte_congr (t u : TableFn) (h : ∀ i, t 0 i = u 0 i) (c : Word) (b : Byte) :
    stepByte t c b = stepByte u c b := by simp [stepByte, h]

theorem foldBytes_congr (t u : TableFn) (h : ∀ i, t 0 i = u 0 i) (c : Word) (bs : List Byte) :
    foldBytes t c bs = foldBytes u c bs := by
  induction bs generalizing c with
  | nil => rfl
  | cons b bs ih => simp [stepByte_congr t u h, ih]

theorem sumLanes_congr (t u : TableFn) (n : Nat) (h : ∀ k < n, ∀ i, t k i = u k i) (k : Nat) (hk : k ≤ n) (h0 : 0 < k)
    (hs : List Byte) : sumLanes t k hs = sumLanes u k hs := by
  induction hs generalizing k with
  | nil => simp
  | cons b hs ih =>
    have h1 : t (k - 1) b = u (k - 1) b := h (k - 1) (by omega) b
    by_cases hk1 : 0 < k - 1
    · simp [h1, ih (k - 1) (by omega) hk1]
    · have hz : k - 1 = 0 := by omega
      have hrest : ∀ l : List Byte, sumLanes t 0 l = sumLanes u 0 l := by
        intro l
        induction l with
        | nil => simp
        | cons c l ihl => simp [h 0 (by omega), ihl]
      simp [hz, h 0 (by omega), hrest]

theorem foldGroups_congr (t u : TableFn) (n : Nat) (h : ∀ k < n, ∀ i, t k i = u k i) (k : Nat) (hk : k ≤ n)
    (h0 : 0 < k) (g : Nat) (c : Word) (bs : List Byte) : foldGroups t k g c bs = foldGroups u k g c bs := by
  induction g generalizing c bs with
  | zero => exact foldBytes_congr t u (fun i => h 0 (by omega) i) c bs
  | succ g ih => simp [groupStep, sumLanes_congr t u n h k hk h0, ih]

/-- Every engine reads slices 0 to 31 only (10_state.md R40). -/
theorem foldEngine_congr (t u : TableFn) (h : ∀ k < 32, ∀ i, t k i = u k i) (e : Engine) (c : Word) (bs : List Byte) :
    foldEngine t e c bs = foldEngine u e c bs := by
  have h0 : ∀ i, t 0 i = u 0 i := fun i => h 0 (by omega) i
  unfold foldEngine
  split
  · exact foldBytes_congr t u h0 c bs
  · exact foldBytes_congr t u h0 c bs
  · exact foldGroups_congr t u 32 h 16 (by omega) (by omega) _ c bs
  · exact foldGroups_congr t u 32 h 16 (by omega) (by omega) _ c bs
  · exact foldGroups_congr t u 32 h 32 (by omega) (by omega) _ c bs
  · exact foldGroups_congr t u 32 h 32 (by omega) (by omega) _ c bs

theorem foldLength_congr (t u : TableFn) (h : ∀ i, t 0 i = u 0 i) (fuel : Nat) (c : Word) (n : Addr) :
    foldLength t fuel c n = foldLength u fuel c n := by
  induction fuel generalizing c n with
  | zero => rfl
  | succ fuel ih => simp [foldLength, stepByte_congr t u h, ih]

end Sys2Proof.Machine
end

