-- ==== Sys2Proof/Laws/Exec.lean ====
section
/-! SUPPORT. One equation per command: what `exec` is for it, as the shared two-step operation; and what every command has
in common. -/

namespace Sys2Proof.Machine

@[simp] theorem exec_build (s : State) : exec .build s = s.command latchBuild fun _ _ => .noResult := rfl

@[simp] theorem exec_partialAuto (seed ddist : Bool) (s : State) :
    exec (.partialAuto seed ddist) s =
      s.command (latchPartial .auto seed ddist) fun t l => t.partialE .auto l.prev l.addr l.len := rfl

@[simp] theorem exec_partialScalar (seed : Bool) (s : State) :
    exec (.partialScalar seed) s =
      s.command (latchPartial .scalar seed false) fun t l => t.partialE .scalar l.prev l.addr l.len := rfl

@[simp] theorem exec_partialS16 (seed : Bool) (s : State) :
    exec (.partialS16 seed) s =
      s.command (latchPartial .s16 seed false) fun t l => t.partialE .s16 l.prev l.addr l.len := rfl

@[simp] theorem exec_partialS16pf (seed ddist : Bool) (s : State) :
    exec (.partialS16pf seed ddist) s =
      s.command (latchPartial .s16pf seed ddist) fun t l => t.partialE .s16pf l.prev l.addr l.len := rfl

@[simp] theorem exec_partialS32 (seed : Bool) (s : State) :
    exec (.partialS32 seed) s =
      s.command (latchPartial .s32 seed false) fun t l => t.partialE .s32 l.prev l.addr l.len := rfl

@[simp] theorem exec_partialS32pf (seed ddist : Bool) (s : State) :
    exec (.partialS32pf seed ddist) s =
      s.command (latchPartial .s32pf seed ddist) fun t l => t.partialE .s32pf l.prev l.addr l.len := rfl

@[simp] theorem exec_fullAuto (ddist : Bool) (s : State) :
    exec (.fullAuto ddist) s = s.command (latchFull .auto ddist) fun t l => t.fullE .auto l.addr l.len := rfl

@[simp] theorem exec_fullScalar (s : State) :
    exec .fullScalar s = s.command (latchFull .scalar false) fun t l => t.fullE .scalar l.addr l.len := rfl

@[simp] theorem exec_fullS16 (s : State) :
    exec .fullS16 s = s.command (latchFull .s16 false) fun t l => t.fullE .s16 l.addr l.len := rfl

@[simp] theorem exec_fullS16pf (ddist : Bool) (s : State) :
    exec (.fullS16pf ddist) s = s.command (latchFull .s16pf ddist) fun t l => t.fullE .s16pf l.addr l.len := rfl

@[simp] theorem exec_fullS32 (s : State) :
    exec .fullS32 s = s.command (latchFull .s32 false) fun t l => t.fullE .s32 l.addr l.len := rfl

@[simp] theorem exec_fullS32pf (ddist : Bool) (s : State) :
    exec (.fullS32pf ddist) s = s.command (latchFull .s32pf ddist) fun t l => t.fullE .s32pf l.addr l.len := rfl

@[simp] theorem exec_finalize (seed : Bool) (s : State) :
    exec (.finalize seed) s =
      s.command (latchFinalize seed) fun t l => .value (finalizeWord t.table l.len l.prev) := rfl

/-- Every command is the shared operation over some latch and some outcome. -/
theorem exec_is_command (i : Instr) :
    ∃ (latch : State → Latch) (outcome : State → Latch → CmdOutcome), ∀ s, exec i s = s.command latch outcome := by
  cases i with
  | build => exact ⟨_, _, exec_build⟩
  | finalize a => exact ⟨_, _, exec_finalize a⟩
  | partialAuto a b => exact ⟨_, _, exec_partialAuto a b⟩
  | partialScalar a => exact ⟨_, _, exec_partialScalar a⟩
  | partialS16 a => exact ⟨_, _, exec_partialS16 a⟩
  | partialS16pf a b => exact ⟨_, _, exec_partialS16pf a b⟩
  | partialS32 a => exact ⟨_, _, exec_partialS32 a⟩
  | partialS32pf a b => exact ⟨_, _, exec_partialS32pf a b⟩
  | fullAuto a => exact ⟨_, _, exec_fullAuto a⟩
  | fullScalar => exact ⟨_, _, exec_fullScalar⟩
  | fullS16 => exact ⟨_, _, exec_fullS16⟩
  | fullS16pf a => exact ⟨_, _, exec_fullS16pf a⟩
  | fullS32 => exact ⟨_, _, exec_fullS32⟩
  | fullS32pf a => exact ⟨_, _, exec_fullS32pf a⟩

end Sys2Proof.Machine
end

