-- ==== Sys2Proof/Laws/PerInstr.lean ====
section
/-! SUPPORT. The per-instruction family WordFields: a command's word has the fields its row of the opcode map gives
(30_encoding.md R80, R86), with every reserved bit 0 (R85), and the command is well formed. -/

namespace Sys2Proof.Laws.WordFields

/-- The fields of the encoded word are the command's, and they break no condition of R90. -/
def Statement (i : Instr) : Prop := Fields.ofWord (encode i) = i.fields ∧ i.wellFormed = true

theorem build : Statement (.build) := by exact ⟨by decide, by decide⟩
theorem finalize (a : Bool) : Statement (.finalize a) := by cases a <;> exact ⟨by decide, by decide⟩
theorem partialAuto (a b : Bool) : Statement (.partialAuto a b) := by cases a <;> cases b <;> exact ⟨by decide, by decide⟩
theorem partialScalar (a : Bool) : Statement (.partialScalar a) := by cases a <;> exact ⟨by decide, by decide⟩
theorem partialS16 (a : Bool) : Statement (.partialS16 a) := by cases a <;> exact ⟨by decide, by decide⟩
theorem partialS16pf (a b : Bool) : Statement (.partialS16pf a b) := by cases a <;> cases b <;> exact ⟨by decide, by decide⟩
theorem partialS32 (a : Bool) : Statement (.partialS32 a) := by cases a <;> exact ⟨by decide, by decide⟩
theorem partialS32pf (a b : Bool) : Statement (.partialS32pf a b) := by cases a <;> cases b <;> exact ⟨by decide, by decide⟩
theorem fullAuto (a : Bool) : Statement (.fullAuto a) := by cases a <;> exact ⟨by decide, by decide⟩
theorem fullScalar : Statement (.fullScalar) := by exact ⟨by decide, by decide⟩
theorem fullS16 : Statement (.fullS16) := by exact ⟨by decide, by decide⟩
theorem fullS16pf (a : Bool) : Statement (.fullS16pf a) := by cases a <;> exact ⟨by decide, by decide⟩
theorem fullS32 : Statement (.fullS32) := by exact ⟨by decide, by decide⟩
theorem fullS32pf (a : Bool) : Statement (.fullS32pf a) := by cases a <;> exact ⟨by decide, by decide⟩

end Sys2Proof.Laws.WordFields
end

