-- ==== Sys2Proof/Laws/Steps.lean ====
section
/-! SUPPORT. One equation per kind of turn: what `step` is when the schedule's next turn is of that kind. -/

namespace Sys2Proof.Machine

theorem State.advance_eq (s : State) (e : Event) (rest : List Event) (h : s.pending = e :: rest) :
    s.advance = { s with pending := rest } := by
  simp [State.advance, h]

theorem step_cons (s : State) (e : Event) (rest : List Event) (h : s.pending = e :: rest) :
    step s = runEvent { s with pending := rest } e := by
  simp [step, nextTurn, h, State.advance]

theorem step_nil (s : State) (h : s.pending = []) : step s = coreTurn s := by simp [step, nextTurn, h]

/-- The host writes a window offset. -/
theorem step_wr (s : State) (off : Nat) (v : Word) (rest : List Event) (h : s.pending = s.platform.wr off v :: rest)
    (hw : off < windowSize) (h4 : off % 4 = 0) : step s = writeOffset { s with pending := rest } off v := by
  rw [step_cons s _ rest h]
  simp [Platform.wr, runEvent, hostWrite, Platform.reach_csr s.platform off hw h4]

/-- The host reads a window offset. -/
theorem step_rd (s : State) (off : Nat) (rest : List Event) (h : s.pending = s.platform.rd off :: rest)
    (hw : off < windowSize) (h4 : off % 4 = 0) :
    step s = .next (State.readCsr { s with pending := rest } (csrAt off)) := by
  rw [step_cons s _ rest h]
  simp [Platform.rd, runEvent, hostRead, Platform.reach_csr s.platform off hw h4]

/-- The host writes a CMD word. -/
theorem step_cmdWrite_cons (s : State) (w : Word) (rest : List Event) (h : s.pending = s.platform.cmdWrite w :: rest) :
    step s = issueWord { s with pending := rest } w := by
  rw [step_cmdWrite s w rest h, State.advance_eq s _ rest h]

/-- Only offset 0x08 is CMD (10_state.md R21). -/
theorem csrAt_eq_cmd (off : Nat) : csrAt off = .cmd ↔ off = 0x08 := by
  constructor
  · intro h
    unfold csrAt at h
    split at h
    · exact nomatch h
    · unfold lowCsr at h
      split at h <;> first | rfl | exact nomatch h
  · rintro rfl; decide

/-- Only offset 0x04 is STATUS (10_state.md R21). -/
theorem csrAt_eq_status (off : Nat) : csrAt off = .status ↔ off = 0x04 := by
  constructor
  · intro h
    unfold csrAt at h
    split at h
    · exact nomatch h
    · unfold lowCsr at h
      split at h <;> first | rfl | exact nomatch h
  · rintro rfl; decide

/-- A reserved offset (10_state.md R23). -/
theorem csrAt_reserved (off : Nat) (h1 : 0x34 ≤ off) (h2 : off < 0x8000) : csrAt off = .reserved := by
  rw [csrAt, if_neg (by omega)]
  unfold lowCsr
  split <;> first | rfl | omega

/-- The table window (10_state.md R41). -/
theorem csrAt_table (k i : Nat) (hi : i < 256) :
    csrAt (0x8000 + 4 * (256 * k + i)) = .table k (BitVec.ofNat 8 i) := by
  rw [csrAt, if_pos (Nat.le_add_right _ _)]
  unfold tableCsr
  have h1 : (0x8000 + 4 * (256 * k + i) - 0x8000) / 4 = 256 * k + i := by omega
  have h2 : (256 * k + i) / 256 = k := by omega
  have h3 : (256 * k + i) % 256 = i := by omega
  rw [h1, h2, h3]

/-- The access that reaches an offset is at `CORE_BASE` plus it, 32 bits wide and aligned (10_state.md R22). -/
theorem Platform.reach_eq_csr (p : Platform) (addr width off : Nat) (h : p.reach addr width = .csr off) :
    addr = p.coreBase + off ∧ width = 4 ∧ off < windowSize ∧ off % 4 = 0 := by
  unfold Platform.reach at h
  split at h
  · simp at h
  · rename_i h1
    split at h
    · simp at h
    · rename_i h2
      split at h
      · simp at h
      · rename_i h3
        simp only [Reach.csr.injEq] at h
        simp only [not_or, not_le, not_lt, ne_eq, not_not] at h1 h2 h3
        omega

end Sys2Proof.Machine
end

