-- ==== Sys2Proof/Tests/Slice0.lean ====
section
/-! SUPPORT. Tests with results taken from spec/ (95_test_vectors.md, the worked examples of the family files, the field
layout of 30_encoding.md), and a witness for the hypotheses of every statement that has some. -/

-- One theorem after another: the kernel's evaluations would otherwise each wait in a thread of its own.
section
set_option Elab.async false

namespace Sys2Proof.Tests.Slice0

open Sys2Proof.Machine

/-! ### Decoding: a word of every command, written out from 30_encoding.md R80 to R86 (RSV, D, S, ENG, OP) -/

theorem test_decode_build : decodeTableWord 32 0b00000000000000000000000000000001 = some (.build) := by decide
theorem test_decode_partialAuto : decodeTableWord 32 0b00000000000000000000001000000010 = some (.partialAuto false true) := by decide
theorem test_decode_partialScalar : decodeTableWord 32 0b00000000000000000000000100010010 = some (.partialScalar true) := by decide
theorem test_decode_partialS16 : decodeTableWord 32 0b00000000000000000000000000100010 = some (.partialS16 false) := by decide
theorem test_decode_partialS16pf : decodeTableWord 32 0b00000000000000000000001100110010 = some (.partialS16pf true true) := by decide
theorem test_decode_partialS32 : decodeTableWord 32 0b00000000000000000000000101000010 = some (.partialS32 true) := by decide
theorem test_decode_partialS32pf : decodeTableWord 32 0b00000000000000000000000101010010 = some (.partialS32pf true false) := by decide
theorem test_decode_fullAuto : decodeTableWord 32 0b00000000000000000000001000000011 = some (.fullAuto true) := by decide
theorem test_decode_fullScalar : decodeTableWord 32 0b00000000000000000000000000010011 = some (.fullScalar) := by decide
theorem test_decode_fullS16 : decodeTableWord 32 0b00000000000000000000000000100011 = some (.fullS16) := by decide
theorem test_decode_fullS16pf : decodeTableWord 32 0b00000000000000000000001000110011 = some (.fullS16pf true) := by decide
theorem test_decode_fullS32 : decodeTableWord 32 0b00000000000000000000000001000011 = some (.fullS32) := by decide
theorem test_decode_fullS32pf : decodeTableWord 32 0b00000000000000000000000001010011 = some (.fullS32pf false) := by decide
theorem test_decode_finalize : decodeTableWord 32 0b00000000000000000000000100000100 = some (.finalize true) := by decide

/-- The illegal words of 95_test_vectors.md 2.6. -/
theorem test_illegal_words_rejected :
    [0x00000000, 0x00000005, 0x0000000F, 0x00000101, 0x00000201, 0x00000011, 0x00000212, 0x00000222, 0x00000242, 0x00000062, 0x000000F2, 0x00000103, 0x00000213, 0x00000014, 0x00000204, 0x00000400, 0x00000402, 0x80000003, 0xFFFFFFFF].all
      (fun n => (decode (BitVec.ofNat 32 n)).toOption == none && !legalWord (BitVec.ofNat 32 n)) = true := by decide

/-- The reason names follow the order of R87: D on SCALAR, a reserved bit, ENG = 6, OP = 5. -/
theorem test_illegal_reasons :
    decode 0x212#32 = .illegal .partialDistance ∧ decode 0x402#32 = .illegal .reservedBits ∧
    decode 0x62#32 = .illegal .engineCode ∧ decode 0x5#32 = .illegal .operationCode := by decide

theorem test_bytes_not_one_word : decodeBytes [0x01, 0x00, 0x00] = .illegal .notOneWord := by decide

/-! ### WellFormed smoke: an ill-formed field record for each check (30_encoding.md R90), which the check refuses -/

theorem smoke_rsvClear : (Fields.mk 2 0 false false 1).rsvClear = false ∧
    (Fields.mk 2 0 false false 1).wellFormed = false := by decide
theorem smoke_opKnown : (Fields.mk 5 0 false false 0).opKnown = false ∧
    (Fields.mk 5 0 false false 0).wellFormed = false := by decide
theorem smoke_engKnown : (Fields.mk 2 6 false false 0).engKnown = false ∧
    (Fields.mk 2 6 false false 0).wellFormed = false := by decide
theorem smoke_engAllowed : (Fields.mk 4 1 false false 0).engAllowed = false ∧
    (Fields.mk 4 1 false false 0).wellFormed = false := by decide
theorem smoke_seedAllowed : (Fields.mk 3 0 true false 0).seedAllowed = false ∧
    (Fields.mk 3 0 true false 0).wellFormed = false := by decide
theorem smoke_ddistAllowed : (Fields.mk 2 1 false true 0).ddistAllowed = false ∧
    (Fields.mk 2 1 false true 0).wellFormed = false := by decide

/-! ### The table (41_table_builder.md R121, R122 examples) -/

theorem test_table_base : T 0 0x01 = 0x04C11DB7#32 ∧ T 0 0x80 = 0x690CE0EE#32 ∧ T 0 0xFF = 0xB1F740B4#32 := by
  decide +kernel
theorem test_table_slices : T 1 0xFF = 0x4EBF24C9#32 ∧ T 15 0x01 = 0x2FB7BF3A#32 ∧ T 16 0x01 = 0x17D3315D#32 ∧
    T 31 0xFF = 0x689A23C7#32 := by decide +kernel
theorem test_table_store : tableImage.entry 31 0x01 = 0x12EED357#32 := by decide +kernel

/-! ### Helpers: a buffer in memory, a machine with a command latched, what a step shows -/

/-- Memory with bytes from an address on. -/
def memOf : Nat → List Byte → Memory
  | _, [] => []
  | a, b :: bs => Memory.write (memOf (a + 1) bs) a b

/-- The bytes 0x00, 0x01, ... of 95_test_vectors.md. -/
def seqBytes (n : Nat) : List Byte := (List.range n).map (BitVec.ofNat 8)

/-- The platform of programs P1 to P5: Admit = [0x10000, 0x20000). -/
def plat : Platform := { coreBase := 0x40000000, allowed := [⟨0x10000, 0x10000⟩] }

/-- After reset on that platform, with a buffer at 0x10000 and a schedule. -/
def atReset (bs : List Byte) (todo : List Event) : State :=
  { State.reset with platform := plat, mem := memOf 0x10000 bs, pending := todo }

/-- The same with a command latched over the buffer. -/
def running (op : Op) (e : Engine) (prev : Word) (bs : List Byte) : State :=
  { atReset bs [] with run := .busy ⟨op, e, prev, 0x10000, BitVec.ofNat 64 bs.length, 256⟩ false }

/-- RESULT and STATUS of a next state. -/
def shows : Res → Option (Word × Word)
  | .next s => some (s.result, s.statusWord)
  | .fault _ => none
  | .refused _ => none

/-- STATUS and EINFO of a next state. -/
def showsError : Res → Option (Word × Addr)
  | .next s => some (s.statusWord, join s.einfoHi s.einfoLo)
  | .fault _ => none
  | .refused _ => none

/-- The latched record of a next state. -/
def latched : Res → Option Latch
  | .next s =>
    match s.run with
    | .busy l _ => some l
    | .idle => none
  | .fault _ => none
  | .refused _ => none

/-- The value a host read returned. -/
def answered : Res → Option Word
  | .next s => some s.rdata
  | .fault _ => none
  | .refused _ => none

/-- Arguments set, so that a latch shows which register it took. -/
def argsSet : State :=
  { State.reset with crcIn := 0x12345678#32, addrLo := 2#32, addrHi := 1#32, lenLo := 4#32, lenHi := 3#32, dist := 64#32 }

/-! ### Issue (30_encoding.md R88: the latch table) -/

theorem test_issue_build : latched (exec (.build) argsSet) = some ⟨.buildOp, .s16pf, 0, 0, 0, 0⟩ := by decide
theorem test_issue_partialAuto : latched (exec (.partialAuto false false) argsSet) = some ⟨.partialOp, .s16pf, 0x12345678, 0x0000000100000002, 0x0000000300000004, 64⟩ := by decide
theorem test_issue_partialScalar : latched (exec (.partialScalar true) argsSet) = some ⟨.partialOp, .scalar, 0xFFFFFFFF, 0x0000000100000002, 0x0000000300000004, 0⟩ := by decide
theorem test_issue_partialS16 : latched (exec (.partialS16 false) argsSet) = some ⟨.partialOp, .s16, 0x12345678, 0x0000000100000002, 0x0000000300000004, 0⟩ := by decide
theorem test_issue_partialS16pf : latched (exec (.partialS16pf true true) argsSet) = some ⟨.partialOp, .s16pf, 0xFFFFFFFF, 0x0000000100000002, 0x0000000300000004, 256⟩ := by decide
theorem test_issue_partialS32 : latched (exec (.partialS32 false) argsSet) = some ⟨.partialOp, .s32, 0x12345678, 0x0000000100000002, 0x0000000300000004, 0⟩ := by decide
theorem test_issue_partialS32pf : latched (exec (.partialS32pf false false) argsSet) = some ⟨.partialOp, .s32pf, 0x12345678, 0x0000000100000002, 0x0000000300000004, 64⟩ := by decide
theorem test_issue_fullAuto : latched (exec (.fullAuto true) argsSet) = some ⟨.fullOp, .s16pf, 0xFFFFFFFF, 0x0000000100000002, 0x0000000300000004, 256⟩ := by decide
theorem test_issue_fullScalar : latched (exec (.fullScalar) argsSet) = some ⟨.fullOp, .scalar, 0xFFFFFFFF, 0x0000000100000002, 0x0000000300000004, 0⟩ := by decide
theorem test_issue_fullS16 : latched (exec (.fullS16) argsSet) = some ⟨.fullOp, .s16, 0xFFFFFFFF, 0x0000000100000002, 0x0000000300000004, 0⟩ := by decide
theorem test_issue_fullS16pf : latched (exec (.fullS16pf false) argsSet) = some ⟨.fullOp, .s16pf, 0xFFFFFFFF, 0x0000000100000002, 0x0000000300000004, 64⟩ := by decide
theorem test_issue_fullS32 : latched (exec (.fullS32) argsSet) = some ⟨.fullOp, .s32, 0xFFFFFFFF, 0x0000000100000002, 0x0000000300000004, 0⟩ := by decide
theorem test_issue_fullS32pf : latched (exec (.fullS32pf false) argsSet) = some ⟨.fullOp, .s32pf, 0xFFFFFFFF, 0x0000000100000002, 0x0000000300000004, 64⟩ := by decide
theorem test_issue_finalize : latched (exec (.finalize false) argsSet) = some ⟨.finalizeOp, .s16pf, 0x12345678, 0, 0x0000000300000004, 0⟩ := by decide

/-! ### Completion (95_test_vectors.md V-SRC-5, 2.3 to 2.5, and the worked examples of the family files) -/

theorem test_complete_build :
    shows (exec (.build) (running .buildOp .s16pf 0 [])) = some (0x00000000, 0x0000000A) := by decide +kernel
theorem test_complete_partialAuto_AB :
    shows (exec (.partialAuto true false) (running .partialOp .s16pf 0xFFFFFFFF [0x41, 0x42])) = some (0x51A41976, 0x0000000A) := by decide +kernel
theorem test_complete_partialScalar_ABCD :
    shows (exec (.partialScalar true) (running .partialOp .scalar 0xFFFFFFFF [0x41, 0x42, 0x43, 0x44])) = some (0x9334B8E7, 0x0000000A) := by decide +kernel
theorem test_complete_partialS16_16_bytes :
    shows (exec (.partialS16 true) (running .partialOp .s16 0xFFFFFFFF (seqBytes 16))) = some (0x03A8227A, 0x0000000A) := by decide +kernel
theorem test_complete_partialS16_from_zero_register :
    shows (exec (.partialS16 false) (running .partialOp .s16 0x00000000 (seqBytes 17))) = some (0x1AF7CF8E, 0x0000000A) := by decide +kernel
theorem test_complete_partialS16pf_17_bytes :
    shows (exec (.partialS16pf true true) (running .partialOp .s16pf 0xFFFFFFFF (seqBytes 17))) = some (0x5887C7E2, 0x0000000A) := by decide +kernel
theorem test_complete_partialS32_zero_32 :
    shows (exec (.partialS32 false) (running .partialOp .s32 0x12345678 (List.replicate 32 0))) = some (0x49B73123, 0x0000000A) := by decide +kernel
theorem test_complete_partialS32pf_33_bytes :
    shows (exec (.partialS32pf true false) (running .partialOp .s32pf 0xFFFFFFFF (seqBytes 33))) = some (0xF9A585ED, 0x0000000A) := by decide +kernel
theorem test_complete_partialS32pf_foreign_register :
    shows (exec (.partialS32pf false false) (running .partialOp .s32pf 0xDEADBEEF (seqBytes 33))) = some (0x221BDD81, 0x0000000A) := by decide +kernel
theorem test_complete_fullAuto_123456789 :
    shows (exec (.fullAuto false) (running .fullOp .s16pf 0xFFFFFFFF [0x31, 0x32, 0x33, 0x34, 0x35, 0x36, 0x37, 0x38, 0x39])) = some (0x377A6011, 0x0000000A) := by decide +kernel
theorem test_complete_fullScalar_a :
    shows (exec (.fullScalar) (running .fullOp .scalar 0xFFFFFFFF [0x61])) = some (0x48C279FE, 0x0000000A) := by decide +kernel
theorem test_complete_fullScalar_empty :
    shows (exec (.fullScalar) (running .fullOp .scalar 0xFFFFFFFF [])) = some (0xFFFFFFFF, 0x0000000A) := by decide +kernel
theorem test_complete_fullS16_16_bytes :
    shows (exec (.fullS16) (running .fullOp .s16 0xFFFFFFFF (seqBytes 16))) = some (0x5887C7E2, 0x0000000A) := by decide +kernel
theorem test_complete_fullS16pf_17_bytes :
    shows (exec (.fullS16pf true) (running .fullOp .s16pf 0xFFFFFFFF (seqBytes 17))) = some (0x207F2233, 0x0000000A) := by decide +kernel
theorem test_complete_fullS32_32_bytes :
    shows (exec (.fullS32) (running .fullOp .s32 0xFFFFFFFF (seqBytes 32))) = some (0xF9A585ED, 0x0000000A) := by decide +kernel
theorem test_complete_fullS32pf_33_bytes :
    shows (exec (.fullS32pf true) (running .fullOp .s32pf 0xFFFFFFFF (seqBytes 33))) = some (0x23E10B1A, 0x0000000A) := by decide +kernel
/-- FINALIZE with LEN = 4 (the length of the list), previous 0x9334B8E7. -/
theorem test_complete_finalize_4 :
    shows (exec (.finalize false) (running .finalizeOp .s16pf 0x9334B8E7 [1, 1, 1, 1])) = some (0xBE15CCD0, 0x0000000A) := by
  decide +kernel
/-- The length fold at 256, 2^32 and 2^64 - 1 (95_test_vectors.md 2.4). -/
theorem test_finalize_lengths :
    finalizeWord T 256 0x00000000 = 0xFB898635#32 ∧ finalizeWord T 4294967296 0x00000000 = 0xBC2E59D4#32 ∧
    finalizeWord T 18446744073709551615 0xFFFFFFFF = 0x51FF99DD#32 := by decide +kernel
/-- The reference reading gives the `cksum` of "123456789" (93_implementation_defined.md G7). -/
theorem test_cksum_reference :
    cksum [0x31, 0x32, 0x33, 0x34, 0x35, 0x36, 0x37, 0x38, 0x39] = BitVec.ofNat 32 930766865 := by decide +kernel

/-! ### Errors and STATUS (95_test_vectors.md 2.7, programs P4 to P6) -/

theorem test_illegal_command_recorded :
    showsError (step (atReset [] [plat.cmdWrite 0x212])) = some (0x00000104, 0x212) := by decide +kernel
theorem test_busy_has_priority :
    showsError (step { running .fullOp .s16 0xFFFFFFFF [] with pending := [plat.cmdWrite 0] }) = some (0x00000205, 0) := by
  decide +kernel
/-- P4: the range 0x1FFFE..0x20001 leaves [0x10000, 0x20000). -/
theorem test_memory_fault :
    showsError (exec .fullS16 { atReset [] [] with run := .busy ⟨.fullOp, .s16, 0xFFFFFFFF, 0x1FFFE, 4, 0⟩ false }) =
      some (0x0000030E, 0x20000) := by decide +kernel
/-- P6: every address admitted, the range passes 2^64. -/
theorem test_memory_fault_past_the_top :
    showsError (exec (.partialScalar false) { State.reset with
      run := .busy ⟨.partialOp, .scalar, 0xFFFFFFFF, 0xFFFFFFFFFFFFFFFE, 4, 0⟩ false }) = some (0x0000030E, 0) := by
  decide +kernel
/-- P4's last write: DONE and ERR cleared together, TBL stays. -/
theorem test_clear_done_and_error :
    showsError (step { atReset [] [plat.wr 0x04 0x6] with
      status := ⟨true, true, true, 3⟩, einfoLo := 0x20000 }) = some (0x00000008, 0) := by decide +kernel
/-- Bit 0 of a STATUS write is ignored. -/
theorem test_status_bit_zero_ignored :
    showsError (step { atReset [] [plat.wr 0x04 0x1] with status := ⟨true, false, true, 0⟩ }) =
      some (0x0000000A, 0) := by decide +kernel

/-! ### Register window (95_test_vectors.md 2.8, 2.1, P7) -/

theorem test_read_id : answered (step (atReset [] [plat.rd 0x00])) = some 0x43524320 := by decide +kernel
theorem test_read_reserved : answered (step (atReset [] [plat.rd 0x7FFC])) = some 0x00000000 := by decide +kernel
theorem test_window_unbuilt : answered (step (atReset [] [plat.rd 0x8004])) = some 0x00000000 := by decide +kernel
theorem test_window_built :
    answered (step { atReset [] [plat.rd 0xFFFC] with status := ⟨true, false, true, 0⟩, tblmem := tableImage }) =
      some 0x689A23C7 := by decide +kernel
theorem test_subword_access_refused :
    step (atReset [] [.read 0x40000004 2]) = .refused .csrAccessWidth := by rfl
theorem test_misaligned_access_refused :
    step (atReset [] [.write 0x40000006 4 0]) = .refused .csrAccessMisaligned := by rfl

/-! ### Prefetch hints (95_test_vectors.md 2.3) -/

theorem test_hints_s16pf :
    (Latch.mk .partialOp .s16pf 0xFFFFFFFF 0x10000 48 256).hints = [0x10100, 0x10110, 0x10120] := by decide +kernel
theorem test_hints_wrap :
    (Latch.mk .partialOp .s16pf 0xFFFFFFFF 0xFFFFFFFFFFFFFFC0 32 0x100).hints = [0xC0, 0xD0] := by decide +kernel
theorem test_hints_s32pf :
    (Latch.mk .partialOp .s32pf 0xFFFFFFFF 0x10000 100 64).hints = [0x10040, 0x10060, 0x10080] := by decide +kernel

/-! ### Pseudo-instructions (30_encoding.md R92) and the schedules of program P5 -/

theorem test_expand_crcfin :
    (Pseudo.crcfin 4).expand plat =
      [.write 0x40000018 4 4, .write 0x4000001C 4 0, .write 0x40000008 4 0x00000004, .wait, .read 0x40000024 4] := by
  decide +kernel
/-- P5, schedule b: the second CMD write while FULL is busy. -/
theorem test_two_writes_schedule_b :
    showsError (step { running .fullOp .s16pf 0xFFFFFFFF [0x41] with pending := [plat.cmdWrite 1, .core] }) =
      some (0x00000205, 1) := by decide +kernel

/-! ### Witnesses: for each statement with hypotheses, a state and operands that meet all of them together -/

/-- An idle machine with CMD's write of a word next: StepRunsTheDecodedCommand, IllegalWordIsRecorded. -/
theorem witness_cmd_write_while_idle (w : Word) :
    (atReset [] [plat.cmdWrite w]).pending = (atReset [] [plat.cmdWrite w]).platform.cmdWrite w :: [] ∧
    (atReset [] [plat.cmdWrite w]).run = .idle ∧ (atReset [] [plat.cmdWrite w]).status.err = false := ⟨rfl, rfl, rfl⟩
theorem witness_decoded_word : decode 0x332#32 = .cmd (.partialS16pf true true) := by decide
theorem witness_illegal_word : legalWord 0x00000000#32 = false ∧ legalWord 0xFFFFFFFF#32 = false := by decide
/-- The same with an error recorded before. -/
theorem witness_cmd_write_after_error (w : Word) :
    ({ atReset [] [plat.cmdWrite w] with status := ⟨false, true, false, 1⟩ } : State).status.err = true ∧
    ({ atReset [] [plat.cmdWrite w] with status := ⟨false, true, false, 1⟩ } : State).run = .idle ∧
    ({ atReset [] [plat.cmdWrite w] with status := ⟨false, true, false, 1⟩ } : State).pending = plat.cmdWrite w :: [] :=
  ⟨rfl, rfl, rfl⟩
/-- A busy machine with the core's turn next, and with nothing scheduled: StepRunsTheDecodedCommand, second clause. -/
theorem witness_core_turn :
    ({ running .fullOp .s16 0xFFFFFFFF [1] with pending := [.core] } : State).pending = .core :: [] ∧
    (running .fullOp .s16 0xFFFFFFFF [1]).pending = [] ∧
    (running .fullOp .s16 0xFFFFFFFF [1]).run = .busy ⟨.fullOp, .s16, 0xFFFFFFFF, 0x10000, 1, 256⟩ false ∧
    (Latch.mk .fullOp .s16 0xFFFFFFFF 0x10000 1 256).readsBuffer = true := ⟨rfl, rfl, rfl, rfl⟩
/-- The bounds of `withFetchWord`'s word. -/
theorem witness_fetch_word : (0 : Nat) < 2 ^ 32 ∧ 0xFFFFFFFF < 2 ^ 32 := by decide
/-- Issue: an idle state and a command of each operation, prefetching and not. -/
theorem witness_issue :
    argsSet.run = .idle ∧ (Instr.partialAuto true true).op = .partialOp ∧ (Instr.partialS32 false).op = .partialOp ∧
    (Instr.fullS32pf true).op = .fullOp ∧ Instr.fullScalar.op = .fullOp ∧ (Instr.fullS32pf true).engine = .s32pf := by
  decide
/-- WriteWhileBusyIsDropped, with and without an earlier error. -/
theorem witness_cmd_write_while_busy (w : Word) (e : Bool) :
    ({ running .fullOp .s16 0xFFFFFFFF [] with
        pending := [plat.cmdWrite w], status := ⟨false, e, false, 0⟩ } : State).pending = plat.cmdWrite w :: [] ∧
    ({ running .fullOp .s16 0xFFFFFFFF [] with
        pending := [plat.cmdWrite w], status := ⟨false, e, false, 0⟩ } : State).status.err = e ∧
    ({ running .fullOp .s16 0xFFFFFFFF [] with
        pending := [plat.cmdWrite w], status := ⟨false, e, false, 0⟩ } : State).run =
      .busy ⟨.fullOp, .s16, 0xFFFFFFFF, 0x10000, 0, 256⟩ false := ⟨rfl, rfl, rfl⟩
/-- UnadmittedBufferFaultsAtCompletion: P4's buffer, the third byte is the first unadmitted one. -/
theorem witness_unadmitted_buffer :
    ({ atReset [] [] with run := .busy ⟨.fullOp, .s16, 0xFFFFFFFF, 0x1FFFE, 4, 0⟩ false } : State).tableOk ∧
    (2 : Nat) < (4 : Addr).toNat ∧ plat.admits (0x1FFFE + 2) = false ∧
    (∀ k, k < 2 → plat.admits (0x1FFFE + k) = true) := by decide +kernel
/-- ErrorStaysUntilCleared: a step from a state with an error. -/
theorem witness_step_with_error :
    ∃ t, step { State.reset with status := ⟨false, true, false, 1⟩ } = .next t ∧ t.status.err = true := ⟨_, rfl, rfl⟩
/-- A host access to any window offset is next: StatusWriteAndRead, RegisterReads, ResultReadIsADrawWhileBusy,
ReservedAndReadOnlyAccesses, TableWindowReads, ArgumentWritesTakeEffectAtOnce, each of their clauses. -/
theorem witness_window_access (off : Nat) (v : Word) :
    (atReset [] [plat.rd off]).pending = (atReset [] [plat.rd off]).platform.rd off :: [] ∧
    (atReset [] [plat.wr off v]).pending = (atReset [] [plat.wr off v]).platform.wr off v :: [] := ⟨rfl, rfl⟩
theorem witness_reserved_bounds : 0x34 ≤ 0x34 ∧ 0x7FFC < 0x8000 ∧ 0x34 % 4 = 0 ∧ 0x7FFC % 4 = 0 ∧ 0xFFFC < 0x10000 := by
  decide
/-- RESULT's read while busy and while idle. -/
theorem witness_result_read :
    ({ running .fullOp .s16 0xFFFFFFFF [] with pending := [plat.rd 0x24] } : State).busy = true ∧
    ({ running .fullOp .s16 0xFFFFFFFF [] with pending := [plat.rd 0x24] } : State).pending = plat.rd 0x24 :: [] ∧
    (atReset [] [plat.rd 0x24]).busy = false := ⟨rfl, rfl, rfl⟩
/-- TableWindowReads at its bounds, with the table built. -/
theorem witness_table_window :
    ({ atReset [] [plat.rd (0x8000 + 4 * (256 * 31 + 255))] with
        status := ⟨true, false, true, 0⟩, tblmem := tableImage } : State).tableOk ∧ (31 : Nat) < 32 ∧ (255 : Nat) < 256 :=
  ⟨fun _ => rfl, by decide, by decide⟩
/-- OnlyAlignedWordAccessesAreAdmitted: the clauses at the window's ends, and a refused step. -/
theorem witness_access_bounds :
    plat.coreBase ≤ 0x4000FFFC ∧ 0x4000FFFF < plat.coreBase + 0x10000 ∧ (0x4000FFFC - plat.coreBase) % 4 = 0 ∧
    (0x4000FFFF - plat.coreBase) % 4 ≠ 0 ∧
    (atReset [] [.read 0x4000FFFC 4]).pending.head? = some (.read 0x4000FFFC 4) := by decide
theorem witness_refused_step : step (atReset [] [.read 0x40000000 1]) = .refused .csrAccessWidth := by rfl
/-- A running PARTIAL and a running FULL with a readable buffer and the table invariant: the completion statements,
EveryEngineGivesTheScalarResult, FullIsPosixCksum, FinalizeCompletes, BuildCompletes, PrefetchDistanceHasNoEffect. -/
theorem witness_running (op : Op) (e : Engine) :
    (running op e 0xFFFFFFFF [0x41]).run = .busy ⟨op, e, 0xFFFFFFFF, 0x10000, 1, 256⟩ false ∧
    (running op e 0xFFFFFFFF [0x41]).tableOk ∧
    readBuf (running op e 0xFFFFFFFF [0x41]).platform (running op e 0xFFFFFFFF [0x41]).mem 0x10000 1 = .bytes [0x41] :=
  ⟨rfl, fun h => by simp [running, atReset, State.reset] at h,
    (by decide +kernel : readBuf plat (memOf 0x10000 [0x41]) 0x10000 1 = .bytes [0x41])⟩
theorem witness_same_engine :
    (Instr.partialS16pf true true).op = (Instr.partialS16pf false false).op ∧
    (Instr.partialS16pf true true).engine = (Instr.partialS16pf false false).engine := by decide
/-- ZeroLengthPartialKeepsTheRegister. -/
theorem witness_zero_length :
    (running .partialOp .s32 0x12345678 []).run = .busy ⟨.partialOp, .s32, 0x12345678, 0x10000, 0#64, 256⟩ false ∧
    (running .partialOp .s32 0x12345678 []).tableOk :=
  ⟨rfl, fun h => by simp [running, atReset, State.reset] at h⟩
/-- SliceFoldEqualsByteFold: groups of both widths. -/
theorem witness_groups : (seqBytes 16).length = 16 ∧ (seqBytes 32).length = 32 := by decide
/-- HintAddressesFollowTheGroups: a latch of each kind, and the last group. -/
theorem witness_hints :
    (2 : Nat) < (Latch.mk .partialOp .s16pf 0 0x10000 48 256).len.toNat / 16 ∧
    (2 : Nat) < (Latch.mk .fullOp .s32pf 0 0x10000 100 256).len.toNat / 32 := by decide
/-- BufferReadChecksTheWholeRange: an admitted range, one that is not, and an address past the top. -/
theorem witness_ranges :
    (∀ j, j < (2 : Addr).toNat → plat.admits ((0x1FFFE : Addr).toNat + j) = true) ∧
    plat.admits ((0x1FFFE : Addr).toNat + 2) = false ∧ 2 ^ 64 ≤ 2 ^ 64 := by decide +kernel
/-- RacingStoreMakesResultADraw: a store to the buffer's last byte, and a raced command. -/
theorem witness_racing_store :
    ({ running .partialOp .s16 0xFFFFFFFF [1, 2] with pending := [.store 0x10001 9] } : State).pending =
      .store 0x10001 9 :: [] ∧
    (0x10000 : Addr).toNat ≤ (0x10001 : Addr).toNat ∧
    (0x10001 : Addr).toNat < (0x10000 : Addr).toNat + (2 : Addr).toNat ∧
    ({ running .partialOp .s16 0xFFFFFFFF [] with
        run := .busy ⟨.partialOp, .s16, 0xFFFFFFFF, 0x10000, 0, 256⟩ true } : State).tableOk ∧
    readBuf plat [] 0x10000 0 = .bytes [] := by decide +kernel
/-- StoreElsewhereIsHarmless: the bytes just below and just past the buffer. -/
theorem witness_store_elsewhere :
    Memory.wf (running .partialOp .s16 0xFFFFFFFF [1, 2]).mem = true ∧
    (0x0FFFF : Addr).toNat < (0x10000 : Addr).toNat ∧
    (0x10000 : Addr).toNat + (2 : Addr).toNat ≤ (0x10002 : Addr).toNat := by decide +kernel
/-- Statements about any step: an idle step, a step that issues, a step that completes, a step that changes RESULT. -/
theorem witness_any_step : ∃ t, step State.reset = .next t ∧ State.reset.pending.head? ≠ some .reset := ⟨_, rfl, by decide⟩
theorem witness_step_issues :
    ∃ t, step (atReset [] [plat.cmdWrite 0x00000003]) = .next t ∧ t.busy = true ∧
      (atReset [] [plat.cmdWrite 0x00000003]).busy = false := ⟨_, rfl, by decide +kernel, rfl⟩
theorem witness_step_completes :
    ∃ t, step (running .finalizeOp .s16pf 0xFFFFFFFF []) = .next t ∧ t.busy = false ∧
      (running .finalizeOp .s16pf 0xFFFFFFFF []).busy = true ∧ t.status.tbl = true ∧
      t.result ≠ (running .finalizeOp .s16pf 0xFFFFFFFF []).result :=
  ⟨_, rfl, by decide +kernel, rfl, by decide +kernel, by decide +kernel⟩
/-- FullCommandComputesCksumInTwoSteps: P1's buffer and command with the core's turn scheduled. -/
theorem witness_two_steps :
    readBuf plat (memOf 0x10000 [0x41, 0x42, 0x43, 0x44]) (0#32 ++ 0x10000#32) (0#32 ++ 4#32) =
      .bytes [0x41, 0x42, 0x43, 0x44] ∧
    (atReset [0x41, 0x42, 0x43, 0x44] [plat.cmdWrite (encode (.fullAuto false)), .core]).run = .idle ∧
    (atReset [0x41, 0x42, 0x43, 0x44] [plat.cmdWrite (encode (.fullAuto false)), .core]).tableOk := by decide +kernel
/-- IdleCoreChangesNothing: both clauses. -/
theorem witness_idle_core :
    (atReset [] [.core]).run = .idle ∧ (atReset [] [.core]).pending = .core :: [] ∧ (atReset [] []).pending = [] :=
  ⟨rfl, rfl, rfl⟩
/-- EveryIssuedCommandCompletes: a busy machine whose schedule holds a turn of every kind but the core's and reset. -/
theorem witness_schedule :
    ({ running .fullOp .s16 0xFFFFFFFF [1] with
        pending := [plat.rd 0x24, plat.wr 0x04 6, .writeBack 0x4000000C, .store 0 0, .wait] } : State).scheduleOk ∧
    (running .fullOp .s16 0xFFFFFFFF [1]).busy = true := by decide +kernel
/-- ResetAbandonsTheCommand: a reset while a command runs. -/
theorem witness_reset_event :
    ({ running .fullOp .s16 0xFFFFFFFF [1] with pending := [.reset] } : State).pending = .reset :: [] := rfl
/-- StepKeepsTheInvariant: a busy state that meets it, and its step. -/
theorem witness_invariant :
    (running .fullOp .s16 0xFFFFFFFF [1]).Inv ∧ ∃ t, step (running .fullOp .s16 0xFFFFFFFF [1]) = .next t :=
  ⟨by decide +kernel, _, rfl⟩
/-- ChainCopiesResultIntoCrcIn and WaitEndsAfterCompletion: the schedules they start from. -/
theorem witness_chain : (atReset [] plat.chainOps).pending = plat.chainOps ++ [] ∧ (atReset [] plat.chainOps).run = .idle :=
  ⟨rfl, rfl⟩
theorem witness_wait :
    (atReset [] [.wait]).pending = .wait :: [] ∧ (atReset [] [.wait]).run = .idle ∧
    ({ running .fullOp .s16 0xFFFFFFFF [1] with pending := [.wait] } : State).pending = .wait :: [] := ⟨rfl, rfl, rfl⟩
/-- CommandIsFourBytesLowestFirst: strings of other lengths; ThirtyLegalWordsInDisjointRows: a legal word and its row. -/
theorem witness_lengths : ([] : List Byte).length ≠ 4 ∧ ([1, 2, 3] : List Byte).length ≠ 4 := by decide
theorem witness_row :
    OpcodeRow.mk "BUILD" 1 0xFFFFFFFF ∈ opcodeRows ∧ (OpcodeRow.mk "BUILD" 1 0xFFFFFFFF).matchesWord 1 = true ∧
    legalWord 1 = true := by decide
/-- FinalizeFoldsTheMinimalLength: a length above 0, its bytes, and its last byte. -/
theorem witness_length_bytes :
    (256 : Addr) ≠ 0#64 ∧ (1 : Nat) < (lengthBytes 8 (256 : Addr).toNat).length ∧ (0 : Addr) = 0#64 := by decide +kernel

end Sys2Proof.Tests.Slice0

end
end

section
/-! SUPPORT. The byte fold over the table `T` against the bit-serial reference `crcBit`: eight turns of the table
builder's loop take in one message byte (41_table_builder.md R120 to R122, 40_common.md R107, R108). -/

namespace Sys2Proof.Machine

/-! ### The loop of the table builder -/

/-- What the bit shifted out adds to the remainder. -/
theorem shiftStep_eq_xor (r : Word) : shiftStep r = (r <<< 1) ^^^ (if r.getLsbD 31 then poly else 0#32) := by
  unfold shiftStep
  split <;> simp

/-- The loop's turn is linear over exclusive-or (R124). -/
theorem shiftStep_xor (a b : Word) : shiftStep (a ^^^ b) = shiftStep a ^^^ shiftStep b := by
  have hcarry : ∀ p q : Bool, (if (p ^^ q) = true then poly else 0#32) =
      (if p = true then poly else 0#32) ^^^ (if q = true then poly else 0#32) := by decide
  simp only [shiftStep_eq_xor, BitVec.getLsbD_xor, BitVec.shiftLeft_xor_distrib, hcarry]
  ac_rfl

theorem shiftStep_iterate_xor (n : Nat) (a b : Word) :
    shiftStep^[n] (a ^^^ b) = shiftStep^[n] a ^^^ shiftStep^[n] b := by
  induction n generalizing a b with
  | zero => rfl
  | succ n ih => simp [shiftStep_xor, ih]

/-- Turns that push out clear bits only are plain shifts. -/
theorem shiftStep_iterate_of_clear (n : Nat) (r : Word) (h : ∀ j, 32 ≤ j + n → r.getLsbD j = false) :
    shiftStep^[n] r = r <<< n := by
  induction n generalizing r with
  | zero => simp
  | succ n ih =>
    have hstep : shiftStep r = r <<< 1 := by rw [shiftStep, h 31 (by omega), if_neg (by decide)]
    rw [Function.iterate_succ_apply, hstep, ih, ← BitVec.shiftLeft_add, Nat.add_comm]
    intro j hj
    cases j with
    | zero => simp
    | succ j => simp [h j (by omega)]

/-! ### The top byte -/

@[simp] theorem topByte_zero : topByte 0#32 = 0#8 := rfl

@[simp] theorem topByte_xor (a b : Word) : topByte (a ^^^ b) = topByte a ^^^ topByte b := BitVec.extractLsb'_xor

/-- A byte at the top of a word is its top byte. -/
@[simp] theorem topByte_shiftLeft_setWidth (b : Byte) : topByte (b.setWidth 32 <<< 24) = b := by
  refine BitVec.eq_of_getLsbD_eq fun j hj => ?_
  simp [topByte, hj, show 24 + j < 32 by omega]

/-- A remainder is its low 24 bits and its top byte. -/
theorem low_xor_topByte (r : Word) :
    (r.extractLsb' 0 24).setWidth 32 ^^^ ((topByte r).setWidth 32 <<< 24) = r := by
  refine BitVec.eq_of_getLsbD_eq fun j hj => ?_
  by_cases h : j < 24
  · simp [h, hj]
  · simp [topByte, h, hj, show j - 24 < 8 by omega, show 24 + (j - 24) = j by omega]

/-! ### One byte -/

/-- The table's zero-byte step is eight turns of the loop (R121, R122). -/
theorem zeroStep_eq_iterate (r : Word) : zeroStep r = shiftStep^[8] r := by
  have hclear : shiftStep^[8] ((r.extractLsb' 0 24).setWidth 32) = (r.extractLsb' 0 24).setWidth 32 <<< 8 :=
    shiftStep_iterate_of_clear 8 _ fun j hj => by simp; omega
  have hlow : (r.extractLsb' 0 24).setWidth 32 <<< 8 = r <<< 8 := by
    refine BitVec.eq_of_getLsbD_eq fun j hj => ?_
    simp only [BitVec.getLsbD_shiftLeft, BitVec.getLsbD_setWidth, BitVec.getLsbD_extractLsb']
    by_cases h : j < 8
    · simp [h]
    · simp [hj, h, show j - 8 < 32 by omega, show j - 8 < 24 by omega]
  calc zeroStep r
      = shiftStep^[8] ((r.extractLsb' 0 24).setWidth 32) ^^^ shiftStep^[8] ((topByte r).setWidth 32 <<< 24) := by
        rw [hclear, hlow, zeroStep, baseEntry]
    _ = shiftStep^[8] r := by rw [← shiftStep_iterate_xor, low_xor_topByte]

theorem zeroStep_xor (a b : Word) : zeroStep (a ^^^ b) = zeroStep a ^^^ zeroStep b := by
  simp only [zeroStep_eq_iterate, shiftStep_iterate_xor]

/-- A byte enters the remainder at its top, before the zero-byte step (R107). -/
theorem stepByte_eq_zeroStep (c : Word) (b : Byte) : stepByte T c b = zeroStep (c ^^^ (b.setWidth 32 <<< 24)) := by
  have hshift : (c ^^^ (b.setWidth 32 <<< 24)) <<< 8 = c <<< 8 := by
    simp [BitVec.shiftLeft_xor_distrib, ← BitVec.shiftLeft_add]
  rw [zeroStep, hshift, topByte_xor, topByte_shiftLeft_setWidth, stepByte, T]

/-! ### The bit-serial reference -/

/-- A bit of a byte enters the remainder by one turn of the loop, the byte standing with that bit at the top (R120). -/
theorem crcBit_getLsbD (c : Word) (b : Byte) (k : Nat) (hk : k < 8) :
    crcBit c (b.getLsbD k) ^^^ (b.setWidth 32 <<< (32 - k)) = shiftStep (c ^^^ (b.setWidth 32 <<< (31 - k))) := by
  have htop : (b.setWidth 32 <<< (31 - k)).getLsbD 31 = b.getLsbD k := by
    simp [show 31 - (31 - k) = k by omega]
  have hshift : b.setWidth 32 <<< (31 - k) <<< 1 = b.setWidth 32 <<< (32 - k) := by
    rw [← BitVec.shiftLeft_add, show 31 - k + 1 = 32 - k by omega]
  simp only [crcBit, shiftStep, BitVec.getLsbD_xor, htop, BitVec.shiftLeft_xor_distrib, hshift]
  split <;> ac_rfl

/-- The lowest `k` bits of a byte, highest first, enter the remainder by `k` turns. -/
theorem foldl_crcBit_lowBits (k : Nat) (hk : k ≤ 8) (c : Word) (b : Byte) :
    ((List.range k).reverse.map b.getLsbD).foldl crcBit c = shiftStep^[k] (c ^^^ (b.setWidth 32 <<< (32 - k))) := by
  induction k generalizing c with
  | zero => simp
  | succ k ih =>
    rw [List.range_succ, List.reverse_concat, List.map_cons, List.foldl_cons, ih (by omega), crcBit_getLsbD c b k hk,
      Function.iterate_succ_apply, show 32 - (k + 1) = 31 - k by omega]

/-- The byte fold over `T` is the bit-serial division of the message (R120). -/
theorem foldl_crcBit_eq_foldBytes (c : Word) (bs : List Byte) :
    (bs.flatMap byteBits).foldl crcBit c = foldBytes T c bs := by
  induction bs generalizing c with
  | nil => rfl
  | cons b bs ih =>
    have hbyte : (byteBits b).foldl crcBit c = stepByte T c b := by
      rw [stepByte_eq_zeroStep, zeroStep_eq_iterate]
      exact foldl_crcBit_lowBits 8 (by omega) c b
    rw [List.flatMap_cons, List.foldl_append, hbyte, ih, foldBytes_cons]

theorem crcOf_eq_foldBytes (bs : List Byte) : crcOf bs = foldBytes T 0#32 bs := foldl_crcBit_eq_foldBytes 0#32 bs

end Sys2Proof.Machine
end

section
/-! SUPPORT. The sliced folds equal the byte fold (43_slice_engines.md R160 to R162), so every engine computes it. -/

namespace Sys2Proof.Machine

/-- The byte of a lane, bit by bit (R160): a lane past the remainder's four bytes takes nothing. -/
theorem getLsbD_laneByte (c : Word) (j i : Nat) (hi : i < 8) :
    (laneByte c j).getLsbD i = (!decide (24 + i < 8 * j) && c.getLsbD (24 + i - 8 * j)) := by
  match j with
  | 0 => simp [laneByte, hi]
  | 1 => simp [laneByte, hi, show 8 ≤ 24 + i by omega, show 24 + i - 8 = 16 + i by omega]
  | 2 => simp [laneByte, hi, show 16 ≤ 24 + i by omega, show 24 + i - 16 = 8 + i by omega]
  | 3 => simp [laneByte, hi]
  | j + 4 => simp [laneByte, show 24 + i < 8 * (j + 4) by omega]

/-- A remainder moved up by `j` bytes has the byte of lane `j` at its top (R160). -/
theorem topByte_shiftLeft_eq_laneByte (c : Word) (j : Nat) : topByte (c <<< (8 * j)) = laneByte c j := by
  refine BitVec.eq_of_getLsbD_eq fun i hi => ?_
  rw [getLsbD_laneByte c j i hi, topByte, BitVec.getLsbD_extractLsb', BitVec.getLsbD_shiftLeft]
  simp [hi, show 24 + i < 32 by omega]

/-- The remainder can be taken in by the lanes of the first four bytes instead (R160). -/
theorem foldBytes_xor_shiftLeft (t : TableFn) (c d : Word) (j : Nat) (bs : List Byte) (h : 4 ≤ j + bs.length) :
    foldBytes t (d ^^^ (c <<< (8 * j))) bs = foldBytes t d (laneBytes c j bs) := by
  induction bs generalizing d j with
  | nil =>
    have hj : 32 ≤ 8 * j := by simp at h; omega
    simp [hj]
  | cons b bs ih =>
    have hstep : stepByte t (d ^^^ (c <<< (8 * j))) b =
        stepByte t d (b ^^^ laneByte c j) ^^^ (c <<< (8 * (j + 1))) := by
      rw [stepByte, stepByte, topByte_xor, topByte_shiftLeft_eq_laneByte, BitVec.shiftLeft_xor_distrib,
        ← BitVec.shiftLeft_add, show 8 * j + 8 = 8 * (j + 1) by omega, BitVec.xor_assoc (topByte d),
        BitVec.xor_comm (laneByte c j) b]
      ac_rfl
    rw [foldBytes_cons, hstep, laneBytes_cons, foldBytes_cons]
    exact ih _ _ (by simp at h; omega)

/-- `T[k][i]` is the base entry moved through `k` zero bytes (R123). -/
theorem T_eq_iterate_zeroStep (k : Nat) (i : Byte) : T k i = zeroStep^[k] (T 0 i) := by
  induction k with
  | zero => rfl
  | succ k ih => rw [Function.iterate_succ_apply', ← ih, T]

/-- The fold is linear in the remainder: a part of it passes the bytes as zero bytes (R124). -/
theorem foldBytes_xor (c d : Word) (bs : List Byte) :
    foldBytes T (c ^^^ d) bs = zeroStep^[bs.length] c ^^^ foldBytes T d bs := by
  induction bs generalizing c d with
  | nil => rfl
  | cons b bs ih =>
    have hstep : stepByte T (c ^^^ d) b = zeroStep c ^^^ stepByte T d b := by
      rw [stepByte_eq_zeroStep, stepByte_eq_zeroStep, BitVec.xor_assoc, zeroStep_xor]
    simp [hstep, ih]

/-- The lanes' lookups add up to the fold of the group from remainder 0 (R162). -/
theorem sumLanes_eq_foldBytes (hs : List Byte) : sumLanes T hs.length hs = foldBytes T 0#32 hs := by
  induction hs with
  | nil => simp
  | cons h hs ih =>
    have hfirst : stepByte T 0#32 h = T 0 h ^^^ 0#32 := by simp [stepByte]
    rw [foldBytes_cons, hfirst, foldBytes_xor, ← T_eq_iterate_zeroStep, ← ih]
    simp

/-- A group step is the byte fold of its group (R162). -/
theorem groupStep_eq_foldBytes (c : Word) (g : List Byte) (h : 4 ≤ g.length) :
    groupStep T g.length c g = foldBytes T c g := by
  have hsum := sumLanes_eq_foldBytes (laneBytes c 0 g)
  rw [length_laneBytes] at hsum
  rw [groupStep, hsum, ← foldBytes_xor_shiftLeft T c 0#32 0 g (by omega)]
  simp

theorem foldGroups_eq_foldBytes (k : Nat) (hk : 4 ≤ k) (n : Nat) (c : Word) (bs : List Byte)
    (h : n * k ≤ bs.length) : foldGroups T k n c bs = foldBytes T c bs := by
  induction n generalizing c bs with
  | zero => rfl
  | succ n ih =>
    rw [Nat.succ_mul] at h
    have hlen : (bs.take k).length = k := by simp; omega
    have hgroup : groupStep T k c (bs.take k) = foldBytes T c (bs.take k) := by
      simpa only [hlen] using groupStep_eq_foldBytes c (bs.take k) (by omega)
    rw [foldGroups_succ, hgroup, ih _ _ (by simp; omega), ← foldBytes_append, List.take_append_drop]

/-- The sliced fold is the byte fold, for every group width of at least the four bytes of the remainder (R162). -/
theorem sliceFold_eq_foldBytes (k : Nat) (hk : 4 ≤ k) (c : Word) (bs : List Byte) :
    sliceFold T k c bs = foldBytes T c bs :=
  foldGroups_eq_foldBytes k hk _ c bs (Nat.div_mul_le_self _ _)

/-- Every engine computes the byte fold (42_scalar_engine.md R141). -/
theorem foldEngine_eq_foldBytes (e : Engine) (c : Word) (bs : List Byte) : foldEngine T e c bs = foldBytes T c bs := by
  have h16 := sliceFold_eq_foldBytes 16 (by decide) c bs
  have h32 := sliceFold_eq_foldBytes 32 (by decide) c bs
  cases e with
  | scalar => rfl
  | auto | s16 | s16pf => exact h16
  | s32 | s32pf => exact h32

/-! ### The length fold -/

/-- The length fold is the byte fold of the length's minimal little-endian form (44_finalize_dispatch.md R190). -/
theorem foldLength_eq_foldBytes (t : TableFn) (fuel : Nat) (c : Word) (n : Addr) :
    foldLength t fuel c n = foldBytes t c (lengthBytes fuel n.toNat) := by
  induction fuel generalizing c n with
  | zero => rfl
  | succ fuel ih =>
    by_cases h : n = 0#64
    · simp [h, lengthBytes]
    · have hn : n.toNat ≠ 0 := fun h0 => h (BitVec.eq_of_toNat_eq h0)
      have hlow : n.extractLsb' 0 8 = BitVec.ofNat 8 n.toNat := by simp [BitVec.extractLsb']
      have hrest : (n >>> 8).toNat = n.toNat / 256 := by simp [Nat.shiftRight_eq_div_pow]
      rw [foldLength_succ t fuel c n h, ih, hrest, hlow, lengthBytes, if_neg hn, foldBytes_cons]

theorem finalizeWord_eq_foldBytes (t : TableFn) (n : Addr) (prev : Word) :
    finalizeWord t n prev = ~~~ foldBytes t (~~~ prev) (lengthBytes 8 n.toNat) := by
  rw [finalizeWord, foldLength_eq_foldBytes]

end Sys2Proof.Machine
end

section
/-! SUPPORT. The completion of an unraced command (40_common.md R103, R105, R110) over the built table, and of the FULL
commands (44_finalize_dispatch.md R192). -/

namespace Sys2Proof.Machine

/-- Building the table, storing a value and retiring is all an unraced completion with a value does (R103). -/
theorem State.buildTable_finish_value (s : State) (h : s.tableOk) (r : Word) :
    s.buildTable.finish false (.value r) = s.completedWith r := by
  cases ht : s.status.tbl with
  | true =>
    simp [State.buildTable_eq_self s ht, State.finish, State.setResult, State.retire, State.completedWith, ht, h ht]
  | false =>
    simp [State.buildTable_of_unbuilt s ht, State.finish, State.setResult, State.retire, State.completedWith]

/-- The bytes a buffer read answers are as many as were asked for (R109). -/
theorem length_of_readBuf (p : Platform) (m : Memory) (addr n : Addr) (bs : List Byte)
    (h : readBuf p m addr n = .bytes bs) : bs.length = n.toNat := by
  unfold readBuf at h
  split at h
  · exact nomatch h
  · obtain rfl := BufRead.bytes.inj h
    exact Memory.length_readBytes ..

/-- Over a readable buffer `PartialE` of any engine gives the byte fold (R110, R141). -/
theorem State.partialE_buildTable (s : State) (h : s.tableOk) (e : Engine) (prev : Word) (addr n : Addr)
    (bs : List Byte) (hb : readBuf s.platform s.mem addr n = .bytes bs) :
    s.buildTable.partialE e prev addr n = .value (~~~ foldBytes T (~~~ prev) bs) := by
  have hfold := foldEngine_congr _ T (fun k hk i => State.buildTable_table s h k i hk) e (~~~ prev) bs
  simp [State.partialE, hb, hfold, foldEngine_eq_foldBytes]

/-- Over a readable buffer `FullE` of any engine gives the POSIX `cksum` (R192, R201). -/
theorem State.fullE_buildTable (s : State) (h : s.tableOk) (e : Engine) (addr n : Addr) (bs : List Byte)
    (hb : readBuf s.platform s.mem addr n = .bytes bs) : s.buildTable.fullE e addr n = .value (cksum bs) := by
  have hslice : ∀ i, s.buildTable.table 0 i = T 0 i := fun i => State.buildTable_table s h 0 i (by decide)
  have hseed : ~~~ Config.seed = 0#32 := by decide
  rw [State.fullE, State.partialE_buildTable s h e Config.seed addr n bs hb]
  simp only [finalizeWord_eq_foldBytes, foldBytes_congr _ T hslice, BitVec.not_not, hseed, ← foldBytes_append]
  rw [cksum, crcOf_eq_foldBytes, length_of_readBuf _ _ _ _ bs hb]

/-- Every FULL command is the shared operation whose outcome is `FullE` of its engine (R195 to R200). -/
theorem exec_full_is_command (i : Instr) (h : i.op = .fullOp) :
    ∃ latch, ∀ s, exec i s = s.command latch fun t l => t.fullE i.engine l.addr l.len := by
  cases i with
  | fullAuto d => exact ⟨_, exec_fullAuto d⟩
  | fullScalar => exact ⟨_, exec_fullScalar⟩
  | fullS16 => exact ⟨_, exec_fullS16⟩
  | fullS16pf d => exact ⟨_, exec_fullS16pf d⟩
  | fullS32 => exact ⟨_, exec_fullS32⟩
  | fullS32pf d => exact ⟨_, exec_fullS32pf d⟩
  | _ => exact nomatch h

/-- Settles O43: the command's outcome is `FullE` of its engine, every engine computes the byte fold, and the byte fold
is the bit-serial division. -/
theorem fullIsPosixCksum : Obligations.FullIsPosixCksum := by
  intro i s l bs hop hrun htable hbuf
  obtain ⟨latch, hexec⟩ := exec_full_is_command i hop
  rw [hexec, State.command_busy s _ _ l false hrun, State.fullE_buildTable s htable i.engine l.addr l.len bs hbuf,
    State.buildTable_finish_value s htable]

end Sys2Proof.Machine
end

section
/-! SUPPORT. A decoded word is its command's encoding and a row of the opcode map (30_encoding.md R80 to R87); what the
two steps of a command leave, for every command (40_common.md R101 to R103). -/

namespace Sys2Proof.Machine

/-! ### The decoder -/

/-- A word is its five fields (R80). -/
theorem packFields_extract (w : Word) :
    packFields (w.extractLsb' 10 22) (w.getLsbD 9) (w.getLsbD 8) (w.extractLsb' 4 4) (w.extractLsb' 0 4) = w := by
  have hbit : ∀ j, BitVec.ofBool (w.getLsbD j) = w.extractLsb' j 1 := by
    intro j
    refine BitVec.eq_of_getLsbD_eq fun n hn => ?_
    obtain rfl : n = 0 := by omega
    simp
  rw [packFields, hbit, hbit, BitVec.extractLsb'_append_extractLsb'_eq_extractLsb' (by rfl),
    BitVec.extractLsb'_append_extractLsb'_eq_extractLsb' (by rfl),
    BitVec.extractLsb'_append_extractLsb'_eq_extractLsb' (by rfl),
    BitVec.extractLsb'_append_extractLsb'_eq_extractLsb' (by rfl)]
  exact BitVec.extractLsb'_eq_self

/-- An ENG field that names an engine holds its code (R82). -/
theorem eq_engCode_of_engineOfCode (c : BitVec 4) (e : Engine) (h : engineOfCode c.toNat = some e) : c = engCode e := by
  cases e <;> revert c <;> decide

@[simp] theorem partialOf_op (e : Engine) (seed ddist : Bool) : (partialOf e seed ddist).op = .partialOp := by
  cases e <;> rfl
@[simp] theorem partialOf_engine (e : Engine) (seed ddist : Bool) : (partialOf e seed ddist).engine = e := by
  cases e <;> rfl
@[simp] theorem partialOf_seedBit (e : Engine) (seed ddist : Bool) : (partialOf e seed ddist).seedBit = seed := by
  cases e <;> rfl
theorem partialOf_ddistBit (e : Engine) (seed ddist : Bool) (h : ddist = false ∨ e.prefetches = true) :
    (partialOf e seed ddist).ddistBit = ddist := by
  cases e <;> simp_all [partialOf, Instr.ddistBit, Engine.prefetches]

@[simp] theorem fullOf_op (e : Engine) (ddist : Bool) : (fullOf e ddist).op = .fullOp := by cases e <;> rfl
@[simp] theorem fullOf_engine (e : Engine) (ddist : Bool) : (fullOf e ddist).engine = e := by cases e <;> rfl
@[simp] theorem fullOf_seedBit (e : Engine) (ddist : Bool) : (fullOf e ddist).seedBit = false := by cases e <;> rfl
theorem fullOf_ddistBit (e : Engine) (ddist : Bool) (h : ddist = false ∨ e.prefetches = true) :
    (fullOf e ddist).ddistBit = ddist := by
  cases e <;> simp_all [fullOf, Instr.ddistBit, Engine.prefetches]

/-- The fields a command is decoded from are the command's own (R81 to R84). -/
theorem fields_of_decodeOp (op : BitVec 4) (e : Engine) (seed ddist : Bool) (i : Instr)
    (h : decodeOp op.toNat e seed ddist = .cmd i) :
    op = opCode i.op ∧ e = i.engine ∧ seed = i.seedBit ∧ ddist = i.ddistBit := by
  unfold decodeOp at h
  split at h
  case h_1 hop =>
    have hcode : op = 1#4 := BitVec.eq_of_toNat_eq hop
    split at h
    · rename_i hb; obtain rfl := Decoded.cmd.inj h; exact ⟨hcode, hb⟩
    · exact nomatch h
  case h_2 hop =>
    have hcode : op = 2#4 := BitVec.eq_of_toNat_eq hop
    split at h
    · rename_i hb; obtain rfl := Decoded.cmd.inj h; simp [hcode, opCode, partialOf_ddistBit e seed ddist hb]
    · exact nomatch h
  case h_3 hop =>
    have hcode : op = 3#4 := BitVec.eq_of_toNat_eq hop
    split at h
    · rename_i hb; obtain rfl := Decoded.cmd.inj h; simp [hcode, opCode, hb.1, fullOf_ddistBit e ddist hb.2]
    · exact nomatch h
  case h_4 hop =>
    have hcode : op = 4#4 := BitVec.eq_of_toNat_eq hop
    split at h
    · rename_i hb; obtain rfl := Decoded.cmd.inj h; exact ⟨hcode, hb.1, rfl, hb.2⟩
    · exact nomatch h
  case h_5 => exact nomatch h

/-- A word that decodes to a command is that command's encoding (R80 to R87). -/
theorem eq_encode_of_decode (w : Word) (i : Instr) (h : decode w = .cmd i) : w = encode i := by
  unfold decode at h
  split at h
  · rename_i hrsv
    split at h
    · rename_i e heng
      have hcode := eq_engCode_of_engineOfCode _ e heng
      obtain ⟨hop, rfl, hseed, hddist⟩ := fields_of_decodeOp _ _ _ _ _ h
      rw [encode, ← hop, ← hcode, ← hseed, ← hddist, ← hrsv, packFields_extract]
    · exact nomatch h
  · exact nomatch h

/-- Every command's word matches a row of the opcode map (R86). -/
theorem legalWord_encode (i : Instr) : legalWord (encode i) = true := by
  cases i with
  | build | fullScalar | fullS16 | fullS32 => decide
  | partialScalar a | partialS16 a | partialS32 a | finalize a => cases a <;> decide
  | fullAuto a | fullS16pf a | fullS32pf a => cases a <;> decide
  | partialAuto a b | partialS16pf a b | partialS32pf a b => cases a <;> cases b <;> decide

theorem legalWord_of_decode (w : Word) (i : Instr) (h : decode w = .cmd i) : legalWord w = true := by
  rw [eq_encode_of_decode w i h]
  exact legalWord_encode i

/-! ### Issue -/

theorem resolveEngine_ne_auto (e : Engine) : resolveEngine e ≠ .auto := by cases e <;> decide

theorem latchBuild_ok (s : State) : (latchBuild s).ok := ⟨resolveEngine_ne_auto .auto, fun h => nomatch h⟩
theorem latchPartial_ok (e : Engine) (seed ddist : Bool) (s : State) : (latchPartial e seed ddist s).ok :=
  ⟨resolveEngine_ne_auto _, fun h => nomatch h⟩
theorem latchFull_ok (e : Engine) (ddist : Bool) (s : State) : (latchFull e ddist s).ok :=
  ⟨resolveEngine_ne_auto _, fun _ => rfl⟩
theorem latchFinalize_ok (seed : Bool) (s : State) : (latchFinalize seed s).ok :=
  ⟨resolveEngine_ne_auto .auto, fun h => nomatch h⟩

/-- Every command is the shared operation over a latch that leaves the record R88 asks for. -/
theorem exec_is_command_of_ok_latch (i : Instr) :
    ∃ (latch : State → Latch) (outcome : State → Latch → CmdOutcome),
      (∀ s, exec i s = s.command latch outcome) ∧ ∀ s, (latch s).ok := by
  cases i with
  | build => exact ⟨_, _, exec_build, latchBuild_ok⟩
  | finalize a => exact ⟨_, _, exec_finalize a, latchFinalize_ok a⟩
  | partialAuto a b => exact ⟨_, _, exec_partialAuto a b, latchPartial_ok _ a b⟩
  | partialScalar a => exact ⟨_, _, exec_partialScalar a, latchPartial_ok _ a _⟩
  | partialS16 a => exact ⟨_, _, exec_partialS16 a, latchPartial_ok _ a _⟩
  | partialS16pf a b => exact ⟨_, _, exec_partialS16pf a b, latchPartial_ok _ a b⟩
  | partialS32 a => exact ⟨_, _, exec_partialS32 a, latchPartial_ok _ a _⟩
  | partialS32pf a b => exact ⟨_, _, exec_partialS32pf a b, latchPartial_ok _ a b⟩
  | fullAuto b => exact ⟨_, _, exec_fullAuto b, latchFull_ok _ b⟩
  | fullScalar => exact ⟨_, _, exec_fullScalar, latchFull_ok _ _⟩
  | fullS16 => exact ⟨_, _, exec_fullS16, latchFull_ok _ _⟩
  | fullS16pf b => exact ⟨_, _, exec_fullS16pf b, latchFull_ok _ b⟩
  | fullS32 => exact ⟨_, _, exec_fullS32, latchFull_ok _ _⟩
  | fullS32pf b => exact ⟨_, _, exec_fullS32pf b, latchFull_ok _ b⟩

/-- While the core is idle a command is accepted (R101). -/
theorem exec_idle (i : Instr) (s : State) (h : s.run = .idle) : ∃ l : Latch, l.ok ∧ exec i s = .next (s.accept l) := by
  obtain ⟨latch, outcome, hexec, hok⟩ := exec_is_command_of_ok_latch i
  exact ⟨latch s, hok s, (hexec s).trans (State.command_idle s latch outcome h)⟩

/-! ### Completion -/

/-- While the core is busy a command builds the table and finishes with some outcome (R103). -/
theorem exec_busy (i : Instr) (s : State) (l : Latch) (raced : Bool) (h : s.run = .busy l raced) :
    ∃ o : CmdOutcome, exec i s = .next (s.buildTable.finish raced o) := by
  obtain ⟨latch, outcome, hexec⟩ := exec_is_command i
  exact ⟨_, (hexec s).trans (State.command_busy s latch outcome l raced h)⟩

/-- A completion keeps a recorded error, its code and EINFO (60_exceptions.md R224). -/
theorem State.finish_keeps_error (s : State) (raced : Bool) (o : CmdOutcome) (h : s.status.err = true) :
    (s.finish raced o).status.err = true ∧ (s.finish raced o).status.ecode = s.status.ecode ∧
    (s.finish raced o).einfoLo = s.einfoLo ∧ (s.finish raced o).einfoHi = s.einfoHi := by
  obtain ⟨r, -, -, heq⟩ | ⟨r, -, -, heq⟩ | ⟨a, -, heq⟩ | ⟨-, heq⟩ := s.finish_cases raced o
  · simp [heq, h]
  · simp [heq, h]
  · simp [heq, h, s.raise_eq_self _ _ h]
  · simp [heq, h]

/-- Settles O45: an accepted command writes LAT, BUSY and DONE only, and a completion's writes are those of `finish`. -/
theorem commandsAlwaysGoOnAndKeepTheArguments : Obligations.CommandsAlwaysGoOnAndKeepTheArguments := by
  intro i s
  cases hrun : s.run with
  | idle =>
    obtain ⟨l, -, hexec⟩ := exec_idle i s hrun
    exact ⟨_, hexec, by simp⟩
  | busy l raced =>
    obtain ⟨o, hexec⟩ := exec_busy i s l raced hrun
    obtain ⟨-, -, -, -, hcrc, halo, hahi, hllo, hlhi, hdist, hmem, hplat, hpend, hrdata⟩ :=
      s.buildTable.finish_frame raced o
    have herr := s.buildTable.finish_keeps_error raced o
    exact ⟨_, hexec, by simpa [hcrc, halo, hahi, hllo, hlhi, hdist, hmem, hplat, hpend, hrdata] using herr⟩

/-- The command LAT completes as has its operation, and its engine where the operation has one (R103). -/
theorem Latch.command_op (l : Latch) : l.command.op = l.op := by
  obtain ⟨op, eng, _, _, _, _⟩ := l
  cases op with
  | buildOp | finalizeOp => rfl
  | partialOp => exact partialOf_op eng _ _
  | fullOp => exact fullOf_op eng _

theorem Latch.command_engine (l : Latch) (h : l.readsBuffer = true) : l.command.engine = l.eng := by
  obtain ⟨op, eng, _, _, _, _⟩ := l
  cases op with
  | buildOp | finalizeOp => exact nomatch h
  | partialOp => exact partialOf_engine eng _ _
  | fullOp => exact fullOf_engine eng _

end Sys2Proof.Machine
end

section
/-! SUPPORT. The register window (10_state.md R21 to R41): the STATUS word bit by bit, the exact effect of a STATUS write,
what a write of any register leaves unchanged, and what each access to the window does. -/

namespace Sys2Proof.Machine

/-! ### STATUS -/

/-- A flag moved up to bit `n` is that bit alone. -/
theorem getLsbD_flagWord_shiftLeft (b : Bool) (n j : Nat) (hj : j < 32) :
    (flagWord b <<< n).getLsbD j = (decide (j = n) && b) := by
  rw [BitVec.getLsbD_shiftLeft, decide_eq_true hj, Bool.true_and]
  cases b with
  | false => simp [flagWord]
  | true =>
    rw [Bool.eq_iff_iff]
    simp [flagWord, BitVec.getLsbD_one]
    omega

/-- ECODE moved up to bit 8. -/
theorem getLsbD_ecode_shiftLeft (c : BitVec 4) (j : Nat) (hj : j < 32) :
    (c.setWidth 32 <<< 8).getLsbD j = (decide (8 ≤ j) && c.getLsbD (j - 8)) := by
  have hge : (!decide (j < 8)) = decide (8 ≤ j) := by
    rw [← decide_not]
    exact decide_eq_decide.mpr Nat.not_lt
  rw [BitVec.getLsbD_shiftLeft, BitVec.getLsbD_setWidth, decide_eq_true hj,
    decide_eq_true (show j - 8 < 32 by omega), hge, Bool.true_and, Bool.true_and]

/-- The STATUS word bit by bit (R31): the four flags below, ECODE from bit 8 on, 0 elsewhere. -/
theorem State.getLsbD_statusWord (s : State) (j : Nat) (hj : j < 32) :
    s.statusWord.getLsbD j =
      (decide (8 ≤ j) && s.status.ecode.getLsbD (j - 8) || decide (j = 3) && s.status.tbl ||
        decide (j = 2) && s.status.err || decide (j = 1) && s.status.done || decide (j = 0) && s.busy) := by
  have hbusy : (flagWord s.busy).getLsbD j = (decide (j = 0) && s.busy) := by
    simpa using getLsbD_flagWord_shiftLeft s.busy 0 j hj
  simp only [State.statusWord, BitVec.getLsbD_or, getLsbD_ecode_shiftLeft _ j hj, getLsbD_flagWord_shiftLeft _ _ j hj,
    hbusy]

/-- From bit 4 on the STATUS word has ECODE at bit 8 and nothing else. -/
theorem State.getLsbD_statusWord_of_four_le (s : State) (j : Nat) (h4 : 4 ≤ j) (hj : j < 32) :
    s.statusWord.getLsbD j = (decide (8 ≤ j) && s.status.ecode.getLsbD (j - 8)) := by
  simp [s.getLsbD_statusWord j hj, show j ≠ 3 by omega, show j ≠ 2 by omega, show j ≠ 1 by omega,
    show j ≠ 0 by omega]

/-- ECODE is bits 11:8 of the STATUS word (R31). -/
theorem State.extractLsb'_statusWord_ecode (s : State) : s.statusWord.extractLsb' 8 4 = s.status.ecode := by
  refine BitVec.eq_of_getLsbD_eq fun j hj => ?_
  simp [hj, s.getLsbD_statusWord_of_four_le (8 + j) (by omega) (by omega)]

/-- Bits 7:4 and 31:12 of the STATUS word are 0 (R31). -/
theorem State.extractLsb'_statusWord_reserved (s : State) :
    s.statusWord.extractLsb' 4 4 = 0#4 ∧ s.statusWord.extractLsb' 12 20 = 0#20 := by
  constructor
  · refine BitVec.eq_of_getLsbD_eq fun j hj => ?_
    simp [hj, s.getLsbD_statusWord_of_four_le (4 + j) (by omega) (by omega), show ¬ 8 ≤ 4 + j by omega]
  · refine BitVec.eq_of_getLsbD_eq fun j hj => ?_
    simp [hj, s.getLsbD_statusWord_of_four_le (12 + j) (by omega) (by omega), show 4 ≤ 12 + j - 8 by omega]

/-- The exact effect of a STATUS write (R31). -/
theorem State.writeStatus_eq (s : State) (v : Word) :
    s.writeStatus v = { s with
      status :=
        { done := s.status.done && !v.getLsbD 1
          err := s.status.err && !v.getLsbD 2
          tbl := s.status.tbl
          ecode := if v.getLsbD 2 = true then 0#4 else s.status.ecode }
      einfoLo := if v.getLsbD 2 = true then 0#32 else s.einfoLo
      einfoHi := if v.getLsbD 2 = true then 0#32 else s.einfoHi } := by
  unfold State.writeStatus
  cases v.getLsbD 1 <;> cases v.getLsbD 2 <;> simp [State.clearDone, State.clearError]

/-! ### What a register write leaves unchanged -/

@[simp] theorem State.writeCsr_run (s : State) (r : Csr) (v : Word) : (s.writeCsr r v).run = s.run := by
  cases r <;> simp [State.writeCsr, State.writeStatus_eq]
@[simp] theorem State.writeCsr_tbl (s : State) (r : Csr) (v : Word) :
    (s.writeCsr r v).status.tbl = s.status.tbl := by
  cases r <;> simp [State.writeCsr, State.writeStatus_eq]
@[simp] theorem State.writeCsr_result (s : State) (r : Csr) (v : Word) : (s.writeCsr r v).result = s.result := by
  cases r <;> simp [State.writeCsr, State.writeStatus_eq]
@[simp] theorem State.writeCsr_tblmem (s : State) (r : Csr) (v : Word) : (s.writeCsr r v).tblmem = s.tblmem := by
  cases r <;> simp [State.writeCsr, State.writeStatus_eq]
@[simp] theorem State.writeCsr_mem (s : State) (r : Csr) (v : Word) : (s.writeCsr r v).mem = s.mem := by
  cases r <;> simp [State.writeCsr, State.writeStatus_eq]
@[simp] theorem State.writeCsr_platform (s : State) (r : Csr) (v : Word) : (s.writeCsr r v).platform = s.platform := by
  cases r <;> simp [State.writeCsr, State.writeStatus_eq]

/-- Only a write of STATUS touches STATUS and EINFO (R23, R31). -/
theorem State.writeCsr_status (s : State) (r : Csr) (v : Word) (h : r ≠ .status) :
    (s.writeCsr r v).status = s.status ∧ (s.writeCsr r v).einfoLo = s.einfoLo ∧
    (s.writeCsr r v).einfoHi = s.einfoHi := by
  cases r with
  | status => exact absurd rfl h
  | _ => exact ⟨rfl, rfl, rfl⟩

/-- From EINFO_HI on no offset of the window takes a write (R23, R41). -/
theorem State.writeCsr_of_high (s : State) (off : Nat) (v : Word) (h : 0x30 ≤ off) (h4 : off % 4 = 0) :
    s.writeCsr (csrAt off) v = s := by
  obtain rfl | ⟨hlo, hhi⟩ | htab : off = 0x30 ∨ (0x34 ≤ off ∧ off < 0x8000) ∨ 0x8000 ≤ off := by omega
  · rfl
  · rw [csrAt_reserved off hlo hhi, State.writeCsr]
  · rw [csrAt, if_pos htab, tableCsr, State.writeCsr]

/-! ### Reads and writes of the window -/

/-- A read of the window returns the register's value, except a draw of RESULT (20_memory.md R66). -/
theorem step_rd_value (s : State) (off : Nat) (rest : List Event) (h : s.pending = s.platform.rd off :: rest)
    (hw : off < windowSize) (h4 : off % 4 = 0) (hr : csrAt off = .result → s.busy = false) :
    step s = .next { s with pending := rest, rdata := s.csrValue (csrAt off) } := by
  have hread : State.readCsr { s with pending := rest } (csrAt off) =
      State.bind { s with pending := rest } (s.csrValue (csrAt off)) := by
    have hplain : ¬ (csrAt off = .result ∧ s.busy = true) := fun hc => by simp [hr hc.1] at hc
    exact (if_neg hplain).trans (by cases csrAt off <;> rfl)
  rw [step_rd s off rest h hw h4, hread, State.bind]

/-- A write of the window that is no CMD write writes its register. -/
theorem step_wr_csr (s : State) (off : Nat) (v : Word) (rest : List Event) (h : s.pending = s.platform.wr off v :: rest)
    (hw : off < windowSize) (h4 : off % 4 = 0) (hc : off ≠ 0x08) :
    step s = .next (State.writeCsr { s with pending := rest } (csrAt off) v) := by
  rw [step_wr s off v rest h hw h4, writeOffset, if_neg (mt (csrAt_eq_cmd off).mp hc)]

/-- Settles O14: the write is `writeStatus_eq`, the word read is described bit by bit. -/
theorem statusWriteAndRead : Obligations.StatusWriteAndRead := by
  constructor
  · intro s v rest h
    rw [step_wr_csr s 0x04 v rest h (by decide) (by decide) (by decide)]
    exact congrArg _ (State.writeStatus_eq { s with pending := rest } v)
  · intro s rest h
    have hbit := s.getLsbD_statusWord
    have hres := s.extractLsb'_statusWord_reserved
    exact ⟨s.statusWord, step_rd_value s 0x04 rest h (by decide) (by decide) fun hr => absurd hr (by decide),
      (hbit 0 (by decide)).trans (by simp), (hbit 1 (by decide)).trans (by simp), (hbit 2 (by decide)).trans (by simp),
      (hbit 3 (by decide)).trans (by simp), hres.1, s.extractLsb'_statusWord_ecode, hres.2⟩

/-- Settles O15: each offset names its register. -/
theorem registerReads : Obligations.RegisterReads := by
  intro s off rest h
  have hread := step_rd_value s off rest h
  refine ⟨?_, ?_, ?_, ?_, ?_, ?_, ?_, ?_, ?_, ?_, ?_⟩ <;> rintro rfl <;>
    exact hread (by decide) (by decide) fun hr => absurd hr (by decide)

/-- Settles O16: while BUSY = 1 the read of RESULT draws, while BUSY = 0 it is a plain read. -/
theorem resultReadIsADrawWhileBusy : Obligations.ResultReadIsADrawWhileBusy := by
  intro s rest h
  constructor
  · intro hbusy
    rw [step_rd s 0x24 rest h (by decide) (by decide), State.readCsr, if_pos ⟨by decide, hbusy⟩, State.bindDraw]
  · intro hidle
    exact step_rd_value s 0x24 rest h (by decide) (by decide) fun _ => hidle

/-- Settles O17: a reserved offset has the value 0, and the listed offsets name registers that take no write. -/
theorem reservedAndReadOnlyAccesses : Obligations.ReservedAndReadOnlyAccesses := by
  constructor
  · intro s off rest hlo hhi h4 h
    have hcsr := csrAt_reserved off hlo hhi
    rw [step_rd_value s off rest h (by rw [windowSize]; omega) h4 (by simp [hcsr]), hcsr, State.csrValue]
  · intro s off v rest hw h4 hoff h
    rw [step_wr_csr s off v rest h hw h4 (by omega)]
    obtain rfl | rfl | rfl | rfl | hhigh := hoff
    · rfl
    · rfl
    · rfl
    · rfl
    · rw [State.writeCsr_of_high _ off v hhigh h4]

/-- Settles O18: the offset names entry `i` of slice `k`, and the built store holds `T`. -/
theorem tableWindowReads : Obligations.TableWindowReads := by
  constructor
  · intro s k i rest hk hi htable h
    have hcsr := csrAt_table k i hi
    rw [step_rd_value s _ rest h (by rw [windowSize]; omega) (by omega) (by simp [hcsr]), hcsr, State.csrValue]
    cases ht : s.status.tbl with
    | false => rfl
    | true => rw [htable ht, tableImage_entry k _ hk]
  · intro s k i v rest hk hi h
    rw [step_wr_csr s _ v rest h (by rw [windowSize]; omega) (by omega) (by omega),
      State.writeCsr_of_high _ _ v (by omega) (by omega)]

end Sys2Proof.Machine
end

section
/-! SUPPORT. What a step can do (40_common.md R100): one relation with a case per kind of change, and that every step is
one of them; and the steps a model refuses (10_state.md R22). -/

namespace Sys2Proof.Machine

/-! ### Where the next turn comes from -/

theorem State.busy_eq_false_iff (s : State) : s.busy = false ↔ s.run = .idle := by
  unfold State.busy
  cases s.run <;> simp

theorem step_of_head (s : State) (e : Event) (h : s.pending.head? = some e) : step s = runEvent s.advance e := by
  obtain ⟨rest, hrest⟩ := List.head?_eq_some_iff.mp h
  rw [step_cons s e rest hrest, State.advance_eq s e rest hrest]

theorem State.advance_eq_self (s : State) (h : s.pending = []) : s.advance = s := by
  rw [State.advance, h, List.tail_nil, ← h]

/-- The next turn is the core's, scheduled or by default. -/
def State.coreNext (s : State) : Prop := s.pending = [] ∨ s.pending.head? = some .core

theorem step_of_coreNext (s : State) (h : s.coreNext) : step s = coreTurn s.advance := by
  obtain hnil | hcore := h
  · rw [step_nil s hnil, State.advance_eq_self s hnil]
  · rw [step_of_head s .core hcore, runEvent]

theorem coreTurn_idle (s : State) (h : s.run = .idle) : coreTurn s = .next s := by
  simp [coreTurn, h]

theorem coreTurn_busy (s : State) (l : Latch) (raced : Bool) (h : s.run = .busy l raced) :
    coreTurn s = exec l.command s := by
  simp [coreTurn, h]

/-- The next turn is a host write of a value at a window offset. -/
def State.hostWrites (s : State) (off : Nat) (v : Word) : Prop :=
  s.pending.head? = some (.write (s.platform.coreBase + off) 4 v) ∨
    (s.pending.head? = some (.writeBack (s.platform.coreBase + off)) ∧ v = s.rdata)

/-! ### What a step can do -/

/-- What a step can make of a state. The turn is taken from the schedule; beyond that, every kind of turn has its one
kind of change. -/
inductive State.Moves (s : State) : State → Prop
  /-- No register and no memory changes: an idle core's turn, a host read, a bus write elsewhere, WAIT's poll. -/
  | observes (todo : List Event) (v : Word) (n : Nat) : s.Moves { s with pending := todo, rdata := v, draws := n }
  /-- A host write of a register. -/
  | writes (off : Nat) (v : Word) (hw : s.hostWrites off v) : s.Moves (s.advance.writeCsr (csrAt off) v)
  /-- A CMD write that records an error (60_exceptions.md R221, R222). -/
  | rejects (e : ErrorKind) (v : Word) (hw : s.hostWrites 0x08 v) : s.Moves (s.advance.raise e (v.setWidth 64))
  /-- A CMD write that issues a command (R101). -/
  | issues (l : Latch) (v : Word) (hw : s.hostWrites 0x08 v) (hlegal : legalWord v = true) (hrun : s.run = .idle)
      (hl : l.ok) : s.Moves (s.advance.accept l)
  /-- The core's turn while a command runs (R103). -/
  | completes (l : Latch) (raced : Bool) (o : CmdOutcome) (hrun : s.run = .busy l raced) (hcore : s.coreNext) :
      s.Moves (s.advance.buildTable.finish raced o)
  /-- A host store (20_memory.md R60). -/
  | stores (a : Addr) (v : Byte) (hst : s.pending.head? = some (.store a v)) : s.Moves (s.advance.storeByte a v)
  /-- A reset (70_reset_and_hazards.md R260). -/
  | resets (hrst : s.pending.head? = some .reset) : s.Moves s.advance.afterReset

theorem State.Moves.advance (s : State) : s.Moves s.advance := .observes s.pending.tail s.rdata s.draws

theorem coreTurn_moves (s t : State) (hcore : s.coreNext) (h : coreTurn s.advance = .next t) : s.Moves t := by
  cases hrun : s.run with
  | idle =>
    rw [coreTurn_idle s.advance hrun] at h
    obtain rfl := Host.Outcome.next.inj h
    exact .advance s
  | busy l raced =>
    obtain ⟨o, hexec⟩ := exec_busy l.command s.advance l raced hrun
    rw [coreTurn_busy s.advance l raced hrun, hexec] at h
    obtain rfl := Host.Outcome.next.inj h
    exact .completes l raced o hrun hcore

theorem hostRead_moves (s t : State) (addr width : Nat) (h : hostRead s.advance addr width = .next t) : s.Moves t := by
  unfold hostRead at h
  split at h
  · obtain rfl := Host.Outcome.next.inj h
    exact .observes _ _ _
  · exact nomatch h
  · exact nomatch h
  · obtain rfl := Host.Outcome.next.inj h
    unfold State.readCsr
    split
    · exact .observes _ _ _
    · exact .observes _ _ _

theorem issueWord_moves (s t : State) (v : Word) (hw : s.hostWrites 0x08 v) (h : issueWord s.advance v = .next t) :
    s.Moves t := by
  unfold issueWord at h
  split at h
  · obtain rfl := Host.Outcome.next.inj h
    exact .rejects _ v hw
  · rename_i hidle
    split at h
    · rename_i i hi
      have hrun : s.run = .idle := s.busy_eq_false_iff.mp (Bool.eq_false_iff.mpr hidle)
      obtain ⟨l, hl, hexec⟩ := exec_idle i s.advance hrun
      obtain rfl := Host.Outcome.next.inj (hexec.symm.trans h)
      exact .issues l v hw (legalWord_of_decode v i hi) hrun hl
    · obtain rfl := Host.Outcome.next.inj h
      exact .rejects _ v hw

/-- A host write does nothing to the core, or it is one of a window offset. -/
theorem hostWrite_eq_next (s t : State) (addr width : Nat) (v : Word) (h : hostWrite s addr width v = .next t) :
    t = s ∨ ∃ off, addr = s.platform.coreBase + off ∧ width = 4 ∧ writeOffset s off v = .next t := by
  unfold hostWrite at h
  split at h
  · exact .inl (Host.Outcome.next.inj h).symm
  · exact nomatch h
  · exact nomatch h
  · rename_i off hreach
    obtain ⟨haddr, hwidth, -, -⟩ := Platform.reach_eq_csr _ _ _ _ hreach
    exact .inr ⟨off, haddr, hwidth, h⟩

theorem writeOffset_moves (s t : State) (off : Nat) (v : Word) (hw : s.hostWrites off v)
    (h : writeOffset s.advance off v = .next t) : s.Moves t := by
  unfold writeOffset at h
  split at h
  · rename_i hcmd
    obtain rfl := (csrAt_eq_cmd off).mp hcmd
    exact issueWord_moves s t v hw h
  · obtain rfl := Host.Outcome.next.inj h
    exact .writes off v hw

/-- Every step is one of these changes. -/
theorem step_moves (s t : State) (h : step s = .next t) : s.Moves t := by
  cases hhead : s.pending.head? with
  | none =>
    have hcore : s.coreNext := .inl (List.head?_eq_none_iff.mp hhead)
    exact coreTurn_moves s t hcore ((step_of_coreNext s hcore).symm.trans h)
  | some e =>
    rw [step_of_head s e hhead] at h
    cases e with
    | read addr width => exact hostRead_moves s t addr width h
    | write addr width v =>
      obtain rfl | ⟨off, rfl, rfl, hoff⟩ := hostWrite_eq_next _ _ _ _ _ h
      · exact .advance s
      · exact writeOffset_moves s t off v (.inl hhead) hoff
    | writeBack addr =>
      obtain rfl | ⟨off, rfl, -, hoff⟩ := hostWrite_eq_next _ _ _ _ _ h
      · exact .advance s
      · exact writeOffset_moves s t off s.rdata (.inr ⟨hhead, rfl⟩) hoff
    | wait =>
      obtain rfl := Host.Outcome.next.inj h
      unfold waitTurn
      split
      · exact .observes _ _ _
      · exact .observes _ _ _
    | store a v =>
      obtain rfl := Host.Outcome.next.inj h
      exact .stores a v hhead
    | core => exact coreTurn_moves s t (.inr hhead) h
    | reset =>
      obtain rfl := Host.Outcome.next.inj h
      exact .resets hhead

end Sys2Proof.Machine
end

section
/-! SUPPORT. The invariant of the machine (10_state.md R26 to R30, R39, R40): every operation on the state keeps it, so
every step does. -/

namespace Sys2Proof.Machine

/-! ### The running command -/

theorem State.runOk_of_idle (s : State) (h : s.run = .idle) : s.runOk = true := by simp [State.runOk, h]

theorem State.runOk_iff_of_busy (s : State) (l : Latch) (raced : Bool) (h : s.run = .busy l raced) :
    s.runOk = true ↔ s.status.done = false ∧ l.ok ∧ (raced = true → l.readsBuffer = true) := by
  cases raced <;> simp [State.runOk, h, and_assoc, imp_iff_not_or]

/-- Only a command that reads a buffer has a byte in it (20_memory.md R67). -/
theorem Latch.readsBuffer_of_bufferHolds (l : Latch) (a : Addr) (h : l.bufferHolds a = true) :
    l.readsBuffer = true := by
  simp only [Latch.bufferHolds, Bool.and_eq_true] at h
  exact h.1.1

/-! ### The operations keep the invariant -/

theorem State.inv_clearDone (s : State) (h : s.Inv) : s.clearDone.Inv := by
  obtain ⟨hmem, htable, herror, hrun⟩ := h
  refine ⟨hmem, htable, herror, ?_⟩
  cases hr : s.run with
  | idle => exact State.runOk_of_idle _ hr
  | busy l raced =>
    obtain ⟨-, hlat⟩ := (s.runOk_iff_of_busy l raced hr).mp hrun
    exact (s.clearDone.runOk_iff_of_busy l raced hr).mpr ⟨rfl, hlat⟩

theorem State.inv_clearError (s : State) (h : s.Inv) : s.clearError.Inv := by
  obtain ⟨hmem, htable, -, hrun⟩ := h
  exact ⟨hmem, htable, ⟨rfl, rfl, rfl⟩, hrun⟩

theorem State.inv_raise (s : State) (e : ErrorKind) (info : Addr) (h : s.Inv) : (s.raise e info).Inv := by
  cases herr : s.status.err with
  | true => rwa [s.raise_eq_self e info herr]
  | false =>
    obtain ⟨hmem, htable, -, hrun⟩ := h
    have hcode : e.code = 1#4 ∨ e.code = 2#4 ∨ e.code = 3#4 := by cases e <;> decide
    rw [s.raise_of_clear e info herr]
    exact ⟨hmem, htable, hcode, hrun⟩

theorem State.inv_buildTable (s : State) (h : s.Inv) : s.buildTable.Inv := by
  cases htbl : s.status.tbl with
  | true => rwa [s.buildTable_eq_self htbl]
  | false =>
    obtain ⟨hmem, -, herror, hrun⟩ := h
    rw [s.buildTable_of_unbuilt htbl]
    exact ⟨hmem, fun _ => rfl, herror, hrun⟩

theorem State.inv_accept (s : State) (l : Latch) (hl : l.ok) (h : s.Inv) : (s.accept l).Inv := by
  obtain ⟨hmem, htable, herror, -⟩ := h
  exact ⟨hmem, htable, herror, ((s.accept l).runOk_iff_of_busy l false rfl).mpr ⟨rfl, hl, nofun⟩⟩

theorem State.inv_retire (s : State) (h : s.Inv) : s.retire.Inv := by
  obtain ⟨hmem, htable, herror, -⟩ := h
  exact ⟨hmem, htable, herror, rfl⟩

theorem State.inv_finish (s : State) (raced : Bool) (o : CmdOutcome) (h : s.Inv) : (s.finish raced o).Inv := by
  obtain ⟨r, -, -, heq⟩ | ⟨r, -, -, heq⟩ | ⟨a, -, heq⟩ | ⟨-, heq⟩ := s.finish_cases raced o
  · rw [heq]; exact (s.setResult r).inv_retire h
  · rw [heq]; exact s.drawResult.inv_retire h
  · rw [heq]; exact (s.raise .memFault a).drawResult.inv_retire (s.inv_raise .memFault a h)
  · rw [heq]; exact s.inv_retire h

theorem State.inv_writeStatus (s : State) (v : Word) (h : s.Inv) : (s.writeStatus v).Inv := by
  have hdone : (if v.getLsbD 1 then s.clearDone else s).Inv := by
    split
    · exact s.inv_clearDone h
    · exact h
  unfold State.writeStatus
  dsimp only
  split
  · exact State.inv_clearError _ hdone
  · exact hdone

/-- The invariant speaks of no register a host write sets but STATUS. -/
theorem State.inv_writeCsr (s : State) (r : Csr) (v : Word) (h : s.Inv) : (s.writeCsr r v).Inv := by
  cases r with
  | status => exact s.inv_writeStatus v h
  | _ => exact h

theorem State.inv_storeByte (s : State) (a : Addr) (v : Byte) (h : s.Inv) : (s.storeByte a v).Inv := by
  obtain ⟨hmem, htable, herror, hrun⟩ := h
  refine ⟨Memory.wf_write _ _ _ a.isLt hmem, htable, herror, ?_⟩
  cases hr : s.run with
  | idle => exact State.runOk_of_idle _ (by simp [hr, Run.noteStore])
  | busy l raced =>
    obtain ⟨hdone, hlat, hraced⟩ := (s.runOk_iff_of_busy l raced hr).mp hrun
    refine ((s.storeByte a v).runOk_iff_of_busy l (raced || l.bufferHolds a) (by simp [hr, Run.noteStore])).mpr
      ⟨hdone, hlat, fun h => ?_⟩
    obtain h | h := Bool.or_eq_true_iff.mp h
    · exact hraced h
    · exact l.readsBuffer_of_bufferHolds a h

theorem State.inv_afterReset (s : State) (h : s.Inv) : s.afterReset.Inv := by
  obtain ⟨hmem, -, -, -⟩ := h
  exact ⟨hmem, fun htbl => (nomatch htbl), ⟨rfl, rfl, rfl⟩, rfl⟩

/-- Settles O52: memory and TBLMEM are empty, no flag is set and nothing runs. -/
theorem resetMeetsTheInvariant : Obligations.ResetMeetsTheInvariant :=
  ⟨rfl, fun htbl => (nomatch htbl), ⟨rfl, rfl, rfl⟩, rfl⟩

/-- Settles O53: a step is one of the moves, and each is made of operations that keep the invariant. -/
theorem stepKeepsTheInvariant : Obligations.StepKeepsTheInvariant := by
  intro s t h hstep
  have hadv : s.advance.Inv := h
  cases step_moves s t hstep with
  | observes todo v n => exact h
  | writes off v hw => exact s.advance.inv_writeCsr _ v hadv
  | rejects e v hw => exact s.advance.inv_raise e _ hadv
  | issues l v hw hlegal hrun hl => exact s.advance.inv_accept l hl hadv
  | completes l raced o hrun hcore => exact s.advance.buildTable.inv_finish raced o (s.advance.inv_buildTable hadv)
  | stores a v hst => exact s.advance.inv_storeByte a v hadv
  | resets hrst => exact s.advance.inv_afterReset hadv

end Sys2Proof.Machine
end

section
/-! SUPPORT. What changes only by one kind of turn: a recorded error, the table, memory, BUSY and RESULT, each read off
the moves of a step. -/

namespace Sys2Proof.Machine

/-- Settles O13: only a STATUS write with bit 2 set and a reset clear an error. -/
theorem errorStaysUntilCleared : Obligations.ErrorStaysUntilCleared := by
  intro s t hstep herr
  cases step_moves s t hstep with
  | observes todo v n => exact .inl ⟨herr, rfl, rfl, rfl⟩
  | writes off v hw =>
    by_cases hst : csrAt off = .status
    · obtain rfl := (csrAt_eq_status off).mp hst
      cases hclear : v.getLsbD 2 with
      | true => exact .inr (.inr ⟨v, hclear, hw⟩)
      | false =>
        left
        rw [hst, State.writeCsr, State.writeStatus_eq, hclear]
        exact ⟨by simpa using herr, rfl, rfl, rfl⟩
    · obtain ⟨hstatus, hlo, hhi⟩ := s.advance.writeCsr_status (csrAt off) v hst
      exact .inl ⟨by rw [hstatus]; exact herr, by rw [hstatus]; rfl, hlo, hhi⟩
  | rejects e v hw =>
    rw [s.advance.raise_eq_self e _ herr]
    exact .inl ⟨herr, rfl, rfl, rfl⟩
  | issues l v hw hlegal hrun hl => exact .inl ⟨herr, rfl, rfl, rfl⟩
  | completes l raced o hrun hcore =>
    have hkeep := s.advance.buildTable.finish_keeps_error raced o (by simpa using herr)
    exact .inl (by simpa using hkeep)
  | stores a v hst => exact .inl ⟨herr, rfl, rfl, rfl⟩
  | resets hrst => exact .inr (.inl hrst)

/-- Settles O24: no move but a completion and a reset touches TBL or TBLMEM, and a completion builds an unbuilt table. -/
theorem tableStaysOnceBuilt : Obligations.TableStaysOnceBuilt := by
  intro s t hstep hreset
  have keeps : ∀ t : State, t.status.tbl = s.status.tbl → t.tblmem = s.tblmem →
      (s.status.tbl = true → t.status.tbl = true ∧ t.tblmem = s.tblmem) ∧
      (s.status.tbl = false → t.status.tbl = true → s.busy = true ∧ t.busy = false ∧ t.tblmem = tableImage) :=
    fun t htbl hmem => ⟨fun h => ⟨htbl.trans h, hmem⟩, fun h h' => by simp [htbl, h] at h'⟩
  cases step_moves s t hstep with
  | observes todo v n => exact keeps _ rfl rfl
  | writes off v hw => exact keeps _ (by simp) (by simp)
  | rejects e v hw => exact keeps _ (by simp) (by simp)
  | issues l v hw hlegal hrun hl => exact keeps _ rfl rfl
  | completes l raced o hrun hcore =>
    obtain ⟨hidle, -, htbl, htblmem, -⟩ := s.advance.buildTable.finish_frame raced o
    constructor
    · intro hbuilt
      exact ⟨by simp [htbl], by rw [htblmem, s.advance.buildTable_eq_self hbuilt, State.advance_tblmem]⟩
    · intro hunbuilt _
      exact ⟨s.busy_of_busy l raced hrun, State.busy_of_idle _ hidle,
        by rw [htblmem, s.advance.buildTable_of_unbuilt hunbuilt]⟩
  | stores a v hst => exact keeps _ rfl rfl
  | resets hrst => exact absurd hrst hreset

/-- Settles O38: only a host store writes memory, and no move writes the platform. -/
theorem onlyTheHostWritesMemory : Obligations.OnlyTheHostWritesMemory := by
  intro s t hstep
  cases step_moves s t hstep with
  | observes todo v n => exact ⟨rfl, fun _ => rfl⟩
  | writes off v hw => simp
  | rejects e v hw => simp
  | issues l v hw hlegal hrun hl => simp
  | completes l raced o hrun hcore =>
    obtain ⟨-, -, -, -, -, -, -, -, -, -, hmem, hplat, -⟩ := s.advance.buildTable.finish_frame raced o
    simp [hmem, hplat]
  | stores a v hst => exact ⟨rfl, fun hno => absurd hst (hno a v)⟩
  | resets hrst => simp

/-- BUSY depends on `run` only. -/
theorem State.busy_congr (s t : State) (h : t.run = s.run) : t.busy = s.busy := by simp [State.busy, h]

/-- A store marks the running command and neither starts nor ends one (20_memory.md R67). -/
@[simp] theorem State.storeByte_busy (s : State) (a : Addr) (v : Byte) : (s.storeByte a v).busy = s.busy := by
  unfold State.busy
  rw [State.storeByte_run]
  cases s.run <;> rfl

/-- Settles O46: only an issue makes the core busy, and only a completion and a reset make it idle. -/
theorem busyChangesOnlyByIssueCompletionReset : Obligations.BusyChangesOnlyByIssueCompletionReset := by
  intro s t hstep
  have keeps : ∀ (t : State) (p q : Prop), t.busy = s.busy →
      (s.busy = false → t.busy = true → p) ∧ (s.busy = true → t.busy = false → q) :=
    fun t p q h => ⟨fun h0 h1 => by simp [h, h0] at h1, fun h1 h0 => by simp [h, h1] at h0⟩
  cases step_moves s t hstep with
  | observes todo v n => exact keeps _ _ _ rfl
  | writes off v hw => exact keeps _ _ _ (State.busy_congr _ _ (by simp))
  | rejects e v hw => exact keeps _ _ _ (State.busy_congr _ _ (by simp))
  | issues l v hw hlegal hrun hl => exact ⟨fun _ _ => ⟨v, hlegal, hw⟩, fun _ hidle => nomatch hidle⟩
  | completes l raced o hrun hcore =>
    have hbusy := s.busy_of_busy l raced hrun
    exact ⟨fun hidle => by simp [hbusy] at hidle, fun _ _ => hcore.imp_right .inl⟩
  | stores a v hst => exact keeps _ _ _ (s.advance.storeByte_busy a v)
  | resets hrst => exact ⟨fun _ hbusy => (nomatch hbusy), fun _ _ => .inr (.inr hrst)⟩

/-- Settles O47: only a completion and a reset write RESULT. -/
theorem resultChangesOnlyAtCompletion : Obligations.ResultChangesOnlyAtCompletion := by
  intro s t hstep hne
  cases step_moves s t hstep with
  | observes todo v n => exact absurd rfl hne
  | writes off v hw => exact absurd (State.writeCsr_result ..) hne
  | rejects e v hw => exact absurd (State.raise_result ..) hne
  | issues l v hw hlegal hrun hl => exact absurd rfl hne
  | completes l raced o hrun hcore =>
    obtain ⟨hidle, hdone, -⟩ := s.advance.buildTable.finish_frame raced o
    exact .inl ⟨s.busy_of_busy l raced hrun, State.busy_of_idle _ hidle, hdone, hcore⟩
  | stores a v hst => exact absurd rfl hne
  | resets hrst => exact .inr hrst

end Sys2Proof.Machine
end

section
/-! SUPPORT. The reset (10_state.md R46, 70_reset_and_hazards.md R260), the command a step runs (40_common.md R101, R103),
and the steps a model refuses (10_state.md R22). -/

namespace Sys2Proof.Machine

/-! ### Reset -/

/-- Settles O50: the fields of `State.reset`. -/
theorem resetValues : Obligations.ResetValues := by
  exact ⟨rfl, rfl, rfl, rfl, rfl, rfl, rfl, rfl, rfl, rfl, rfl, rfl, rfl, rfl⟩

/-- Settles O51: a reset turn is `afterReset`, whatever runs. -/
theorem resetAbandonsTheCommand : Obligations.ResetAbandonsTheCommand := by
  intro s rest h
  refine ⟨State.afterReset { s with pending := rest }, step_cons s .reset rest h, ?_⟩
  exact ⟨rfl, rfl, rfl, rfl, rfl, rfl, rfl, rfl, rfl, rfl, rfl, rfl, rfl, rfl, rfl⟩

/-! ### The command a step runs -/

/-- Settles O6: the CMD write's word is decoded, the core's turn takes LAT's command. -/
theorem stepRunsTheDecodedCommand : Obligations.StepRunsTheDecodedCommand := by
  refine ⟨?_, ?_, ?_, ?_⟩
  · intro s w i rest h hrun hdecode
    have hidle : State.busy { s with pending := rest } = false := State.busy_of_idle _ hrun
    rw [step_cmdWrite_cons s w rest h, issueWord, hidle, hdecode]
    rfl
  · intro s l raced rest h hrun
    have hturn : step s = coreTurn { s with pending := rest } := by
      obtain hcore | ⟨hnil, rfl⟩ := h
      · exact step_cons s .core rest hcore
      · rw [step_nil s hnil, ← hnil]
    exact hturn.trans (coreTurn_busy _ l raced hrun)
  · exact fun l => ⟨l.command_op, l.command_engine⟩
  · intro s w hw
    rw [State.withFetchWord, Nat.mod_eq_of_lt hw]

/-! ### Refusals -/

/-- No turn of the core is refused. -/
theorem coreTurn_next (s : State) : ∃ t, coreTurn s = .next t := by
  cases hrun : s.run with
  | idle => exact ⟨s, coreTurn_idle s hrun⟩
  | busy l raced =>
    obtain ⟨o, hexec⟩ := exec_busy l.command s l raced hrun
    exact ⟨_, (coreTurn_busy s l raced hrun).trans hexec⟩

/-- No write that reached the window is refused: a CMD write records an error or issues, any other sets a register. -/
theorem writeOffset_next (s : State) (off : Nat) (v : Word) : ∃ t, writeOffset s off v = .next t := by
  unfold writeOffset
  split
  · unfold issueWord
    split
    · exact ⟨_, rfl⟩
    · rename_i hidle
      split
      · rename_i i _
        obtain ⟨l, -, hexec⟩ := exec_idle i s (s.busy_eq_false_iff.mp (Bool.eq_false_iff.mpr hidle))
        exact ⟨_, hexec⟩
      · exact ⟨_, rfl⟩
  · exact ⟨_, rfl⟩

/-- The name an access is refused by, from where it goes (R22). -/
def Reach.refusal : Reach → Option Refusal
  | .elsewhere => none
  | .badWidth => some .csrAccessWidth
  | .misaligned => some .csrAccessMisaligned
  | .csr _ => none

/-- The name a turn is refused by: a host access by where it goes, no other turn. -/
def Event.refusal (p : Platform) : Event → Option Refusal
  | .read addr width => (p.reach addr width).refusal
  | .write addr width _ => (p.reach addr width).refusal
  | .writeBack addr => (p.reach addr 4).refusal
  | .wait => none
  | .store _ _ => none
  | .core => none
  | .reset => none

/-- An answer is the given refusal, or a next state where there is none. -/
def AnswersWith (r : Option Refusal) (a : Res) : Prop :=
  match r with
  | none => ∃ t, a = .next t
  | some x => a = .refused x

theorem hostRead_answersWith (s : State) (addr width : Nat) :
    AnswersWith (s.platform.reach addr width).refusal (hostRead s addr width) := by
  unfold hostRead
  cases s.platform.reach addr width with
  | elsewhere | csr off => exact ⟨_, rfl⟩
  | badWidth | misaligned => rfl

theorem hostWrite_answersWith (s : State) (addr width : Nat) (v : Word) :
    AnswersWith (s.platform.reach addr width).refusal (hostWrite s addr width v) := by
  unfold hostWrite
  cases s.platform.reach addr width with
  | elsewhere => exact ⟨_, rfl⟩
  | badWidth | misaligned => rfl
  | csr off => exact writeOffset_next s off v

/-- A turn is refused by its name exactly when it has one. -/
theorem runEvent_answersWith (s : State) (e : Event) : AnswersWith (e.refusal s.platform) (runEvent s e) := by
  cases e with
  | read addr width => exact hostRead_answersWith s addr width
  | write addr width v => exact hostWrite_answersWith s addr width v
  | writeBack addr => exact hostWrite_answersWith s addr 4 s.rdata
  | core => exact coreTurn_next s
  | wait | store a v | reset => exact ⟨_, rfl⟩

theorem step_answersWith (s : State) (e : Event) (h : s.pending.head? = some e) :
    AnswersWith (e.refusal s.platform) (step s) := by
  rw [step_of_head s e h]
  exact runEvent_answersWith s.advance e

theorem Reach.refusal_eq_some (g : Reach) (r : Refusal) (h : g.refusal = some r) :
    r = .csrAccessWidth ∨ r = .csrAccessMisaligned := by
  cases g with
  | elsewhere | csr off => exact nomatch h
  | badWidth => exact .inl (Option.some.inj h).symm
  | misaligned => exact .inr (Option.some.inj h).symm

theorem Platform.accessOk_of_refusal (p : Platform) (addr width : Nat) (r : Refusal)
    (h : (p.reach addr width).refusal = some r) : p.accessOk addr width = false := by
  unfold Platform.accessOk
  cases hg : p.reach addr width with
  | elsewhere | csr off => rw [hg] at h; exact nomatch h
  | badWidth | misaligned => rfl

/-- A turn with a name to be refused by is a host access that is not `accessOk`. -/
theorem Event.refusal_eq_some (p : Platform) (e : Event) (r : Refusal) (h : e.refusal p = some r) :
    (r = .csrAccessWidth ∨ r = .csrAccessMisaligned) ∧ e.accessOk p = false := by
  cases e with
  | read addr width => exact ⟨Reach.refusal_eq_some _ r h, p.accessOk_of_refusal addr width r h⟩
  | write addr width v => exact ⟨Reach.refusal_eq_some _ r h, p.accessOk_of_refusal addr width r h⟩
  | writeBack addr => exact ⟨Reach.refusal_eq_some _ r h, p.accessOk_of_refusal addr 4 r h⟩
  | wait | store a v | core | reset => exact nomatch h

/-- An access that starts in the window, by its width and alignment (R22). -/
theorem Platform.reach_of_mem_window (p : Platform) (addr width : Nat) (hlo : p.coreBase ≤ addr)
    (hhi : addr < p.coreBase + 0x10000) (hwidth : 0 < width) :
    p.reach addr width =
      if width ≠ 4 then .badWidth
      else if (addr - p.coreBase) % 4 ≠ 0 then .misaligned
      else .csr (addr - p.coreBase) := by
  have hin : ¬ (addr + width ≤ p.coreBase ∨ p.coreBase + windowSize ≤ addr) := by
    rw [windowSize]; omega
  rw [Platform.reach, if_neg hin]
  simp only [Nat.not_lt.mpr hlo, false_or]

/-- Settles O20: inside the window width and alignment decide, and no turn but an access that is not admitted has a name
to be refused by. -/
theorem onlyAlignedWordAccessesAreAdmitted : Obligations.OnlyAlignedWordAccessesAreAdmitted := by
  constructor
  · intro s e addr width hlo hhi hwidth he hhead
    have hrefusal : e.refusal s.platform = (s.platform.reach addr width).refusal := by
      obtain rfl | ⟨v, rfl⟩ := he
      · rfl
      · rfl
    have hans := step_answersWith s e hhead
    rw [hrefusal, s.platform.reach_of_mem_window addr width hlo hhi hwidth] at hans
    refine ⟨fun hw => ?_, fun hw ha => ?_, fun hw ha => ?_⟩
    · rwa [if_pos hw] at hans
    · rwa [if_neg (not_not.mpr hw), if_pos ha] at hans
    · rwa [if_neg (not_not.mpr hw), if_neg (not_not.mpr ha)] at hans
  · intro s r hstep
    cases hhead : s.pending.head? with
    | none =>
      obtain ⟨t, ht⟩ := coreTurn_next s.advance
      rw [step_of_coreNext s (.inl (List.head?_eq_none_iff.mp hhead)), ht] at hstep
      exact nomatch hstep
    | some e =>
      have hans := step_answersWith s e hhead
      cases href : e.refusal s.platform with
      | none =>
        rw [href] at hans
        obtain ⟨t, ht⟩ := hans
        exact nomatch ht.symm.trans hstep
      | some x =>
        rw [href] at hans
        obtain rfl := Host.Outcome.refused.inj (hans.symm.trans hstep)
        obtain ⟨hname, hok⟩ := e.refusal_eq_some s.platform x href
        exact ⟨hname, e, rfl, hok⟩

end Sys2Proof.Machine
end

section
/-! SUPPORT. The bytes of a CMD write (20_memory.md R63, 30_encoding.md R89); a command whose buffer the host stores into
(20_memory.md R67, 70_reset_and_hazards.md R265); WAIT's polls (30_encoding.md R92). -/

namespace Sys2Proof.Machine

/-! ### The bytes of a command -/

/-- Every command's word decodes to it (R87). -/
theorem decode_encode (i : Instr) : decode (encode i) = .cmd i := by
  cases i with
  | build | fullScalar | fullS16 | fullS32 => decide
  | partialScalar a | partialS16 a | partialS32 a | finalize a => cases a <;> decide
  | fullAuto a | fullS16pf a | fullS32pf a => cases a <;> decide
  | partialAuto a b | partialS16pf a b | partialS32pf a b => cases a <;> cases b <;> decide

/-- A word is its four byte lanes (20_memory.md R63). -/
theorem wordOfLanes_extract (w : Word) :
    wordOfLanes (w.extractLsb' 0 8) (w.extractLsb' 8 8) (w.extractLsb' 16 8) (w.extractLsb' 24 8) = w := by
  rw [wordOfLanes, BitVec.extractLsb'_append_extractLsb'_eq_extractLsb' (by rfl),
    BitVec.extractLsb'_append_extractLsb'_eq_extractLsb' (by rfl),
    BitVec.extractLsb'_append_extractLsb'_eq_extractLsb' (by rfl)]
  exact BitVec.extractLsb'_eq_self

/-- Settles O5: the four lanes make the encoded word again, and only a string of four bytes has lanes. -/
theorem commandIsFourBytesLowestFirst : Obligations.CommandIsFourBytesLowestFirst := by
  constructor
  · intro i
    rw [encodeBytes, decodeBytes, wordOfLanes_extract, decode_encode]
  · intro bs hlen
    unfold decodeBytes
    split
    · exact absurd rfl hlen
    · rfl

/-! ### A store into the running command's buffer -/

theorem Latch.bufferHolds_of_mem_range (l : Latch) (a : Addr) (hreads : l.readsBuffer = true)
    (hlo : l.addr.toNat ≤ a.toNat) (hhi : a.toNat < l.addr.toNat + l.len.toNat) : l.bufferHolds a = true := by
  simp [Latch.bufferHolds, hreads, hlo, hhi]

/-- PARTIAL and FULL read a buffer (R88). -/
theorem Latch.readsBuffer_of_op (l : Latch) (h : l.op = .partialOp ∨ l.op = .fullOp) : l.readsBuffer = true := by
  obtain h | h := h <;> rw [Latch.readsBuffer, h]

/-- A store into the running command's buffer races it, raced before or not (20_memory.md R67). -/
theorem State.storeByte_of_bufferHolds (s : State) (l : Latch) (raced : Bool) (a : Addr) (v : Byte)
    (hrun : s.run = .busy l raced) (h : l.bufferHolds a = true) :
    s.storeByte a v = { s with mem := s.mem.write a.toNat v, run := .busy l true } := by
  rw [State.storeByte, hrun, Run.noteStore, h, Bool.or_true]

/-- Every PARTIAL command is the shared operation whose outcome is `PartialE` of its engine (R110). -/
theorem exec_partial_is_command (i : Instr) (h : i.op = .partialOp) :
    ∃ latch, ∀ s, exec i s = s.command latch fun t l => t.partialE i.engine l.prev l.addr l.len := by
  cases i with
  | partialAuto a d => exact ⟨_, exec_partialAuto a d⟩
  | partialScalar a => exact ⟨_, exec_partialScalar a⟩
  | partialS16 a => exact ⟨_, exec_partialS16 a⟩
  | partialS16pf a d => exact ⟨_, exec_partialS16pf a d⟩
  | partialS32 a => exact ⟨_, exec_partialS32 a⟩
  | partialS32pf a d => exact ⟨_, exec_partialS32pf a d⟩
  | _ => exact nomatch h

/-- Over a readable buffer a PARTIAL or FULL command finishes with a value, raced or not (R103). -/
theorem exec_busy_of_readBuf (i : Instr) (s : State) (l : Latch) (raced : Bool) (bs : List Byte)
    (hop : i.op = .partialOp ∨ i.op = .fullOp) (hrun : s.run = .busy l raced) (htable : s.tableOk)
    (hbuf : readBuf s.platform s.mem l.addr l.len = .bytes bs) :
    ∃ r, exec i s = .next (s.buildTable.finish raced (.value r)) := by
  obtain hop | hop := hop
  · obtain ⟨latch, hexec⟩ := exec_partial_is_command i hop
    have hvalue := State.partialE_buildTable s htable i.engine l.prev l.addr l.len bs hbuf
    exact ⟨_, by rw [hexec, State.command_busy s _ _ l raced hrun, hvalue]⟩
  · obtain ⟨latch, hexec⟩ := exec_full_is_command i hop
    have hvalue := State.fullE_buildTable s htable i.engine l.addr l.len bs hbuf
    exact ⟨_, by rw [hexec, State.command_busy s _ _ l raced hrun, hvalue]⟩

/-- A raced completion with a value is an unraced one with the next draw in the value's place (20_memory.md R67). -/
theorem State.finish_raced_value (s : State) (r : Word) :
    s.finish true (.value r) =
      { s.finish false (.value (Config.freeWord s.draws)) with draws := s.draws + 1 } := rfl

/-- Settles O36: the store is noted in the running command, and a noted command's value is given up for a draw. -/
theorem racingStoreMakesResultADraw : Obligations.RacingStoreMakesResultADraw := by
  constructor
  · intro s l raced a v rest hpend hrun hop hlo hhi
    have hholds := l.bufferHolds_of_mem_range a (l.readsBuffer_of_op hop) hlo hhi
    rw [step_cons s _ rest hpend, runEvent,
      State.storeByte_of_bufferHolds { s with pending := rest } l raced a v hrun hholds]
  · intro i s l bs hop hrun htable hbuf
    obtain ⟨r, hexec⟩ := exec_busy_of_readBuf i s l true bs hop hrun htable hbuf
    rw [hexec, State.finish_raced_value, State.buildTable_finish_value s htable, State.buildTable_draws]

/-! ### WAIT -/

/-- WAIT's poll of an idle core ends it. -/
theorem step_wait_idle (s : State) (rest : List Event) (h : s.pending = .wait :: rest) (hrun : s.run = .idle) :
    step s = .next { s with pending := rest, rdata := s.statusWord } := by
  have hidle : State.busy { s with pending := rest } = false := State.busy_of_idle _ hrun
  rw [step_cons s .wait rest h, runEvent, waitTurn, hidle]
  rfl

/-- WAIT's poll of a busy core leaves the core's turn and another poll to come (40_common.md R104). -/
theorem step_wait_busy (s : State) (l : Latch) (raced : Bool) (rest : List Event) (h : s.pending = .wait :: rest)
    (hrun : s.run = .busy l raced) :
    step s = .next { s with pending := .core :: .wait :: rest, rdata := s.statusWord } := by
  have hbusy : State.busy { s with pending := rest } = true := State.busy_of_busy _ l raced hrun
  rw [step_cons s .wait rest h, runEvent, waitTurn, hbusy]
  rfl

/-- The core's scheduled turn completes the running command (R103). -/
theorem step_core_busy (s : State) (l : Latch) (raced : Bool) (rest : List Event) (h : s.pending = .core :: rest)
    (hrun : s.run = .busy l raced) :
    ∃ t : State, step s = .next t ∧ t.run = .idle ∧ t.status.done = true ∧ t.pending = rest := by
  obtain ⟨o, hexec⟩ := exec_busy l.command s.advance l raced hrun
  obtain ⟨hidle, hdone, -, -, -, -, -, -, -, -, -, -, hpend, -⟩ := s.advance.buildTable.finish_frame raced o
  have hstep : step s = coreTurn s.advance := step_of_coreNext s (.inr (by rw [h, List.head?_cons]))
  exact ⟨_, hstep.trans ((coreTurn_busy s.advance l raced hrun).trans hexec), hidle, hdone, by simp [hpend, h]⟩

/-- A run goes on from where its first step leads. -/
theorem run_succ_of_step (n : Nat) (s t : State) (h : step s = .next t) :
    Host.Core.run Sys2Proof.core (n + 1) s = Host.Core.run Sys2Proof.core n t := by
  have hcore : Sys2Proof.core.step s = .next t := h
  simp only [Host.Core.run, hcore]

/-- The STATUS word read has BUSY at bit 0 and DONE at bit 1 (R31). -/
theorem State.statusWord_busy_done (s : State) :
    s.statusWord.getLsbD 0 = s.busy ∧ s.statusWord.getLsbD 1 = s.status.done :=
  ⟨(s.getLsbD_statusWord 0 (by decide)).trans (by simp), (s.getLsbD_statusWord 1 (by decide)).trans (by simp)⟩

/-- Settles O55: a poll that finds the core idle is WAIT's last, and one that finds it busy is followed by the completion
and by the last poll. -/
theorem waitEndsAfterCompletion : Obligations.WaitEndsAfterCompletion := by
  intro s rest hpend
  constructor
  · intro hrun
    exact ⟨s.statusWord, s.statusWord_busy_done.1.trans (s.busy_of_idle hrun), step_wait_idle s rest hpend hrun⟩
  · intro l raced hrun
    have hpoll := step_wait_busy s l raced rest hpend hrun
    obtain ⟨t, hcore, hidle, hdone, htodo⟩ :=
      step_core_busy { s with pending := .core :: .wait :: rest, rdata := s.statusWord } l raced (.wait :: rest) rfl hrun
    have hlast := step_wait_idle t rest htodo hidle
    obtain ⟨hbit0, hbit1⟩ := t.statusWord_busy_done
    refine ⟨{ t with pending := rest, rdata := t.statusWord }, t.statusWord, ?_, hidle, hdone, rfl, rfl,
      hbit0.trans (t.busy_of_idle hidle), hbit1.trans hdone⟩
    rw [run_succ_of_step 2 s _ hpoll, run_succ_of_step 1 _ t hcore, run_succ_of_step 0 t _ hlast]
    rfl

end Sys2Proof.Machine
end

section
/-! SUPPORT. The three readings of a legal word held together: the rows of the opcode map, the checks on a word's fields
and the decoder (30_encoding.md R80 to R90). -/

namespace Sys2Proof.Machine

/-! ### Encoding and decoding -/

/-- Settles O1: a decoded word is its command's encoding, and every encoding decodes to its command. -/
theorem decodeInvertsEncode : Obligations.DecodeInvertsEncode := by
  intro w i
  constructor
  · exact eq_encode_of_decode w i
  · rintro rfl
    exact decode_encode i

/-- Settles O4: each word is the encoding of its command. -/
theorem writtenWordsDecode : Obligations.WrittenWordsDecode := by
  refine ⟨?_, ?_, ?_, ?_, ?_, ?_⟩ <;> exact (decodeInvertsEncode _ _).mpr (by decide)

/-! ### The rows of the opcode map -/

/-- The word of a row's pattern with the operand bits S at 8 and D at 9 (R80). -/
def rowWord (r : OpcodeRow) (seed ddist : Bool) : Word :=
  r.pattern ||| (flagWord seed <<< 8) ||| (flagWord ddist <<< 9)

/-- A word is its bits outside S and D together with its S and D. -/
theorem or_operandBits (w : Word) :
    (w &&& 0xFFFFFCFF#32) ||| (flagWord (w.getLsbD 8) <<< 8) ||| (flagWord (w.getLsbD 9) <<< 9) = w := by
  have hmask : ∀ j < 32, (0xFFFFFCFF#32).getLsbD j = decide (j ≠ 8 ∧ j ≠ 9) := by decide
  refine BitVec.eq_of_getLsbD_eq fun j hj => ?_
  simp only [BitVec.getLsbD_or, BitVec.getLsbD_and, hmask j hj, getLsbD_flagWord_shiftLeft _ _ _ hj]
  by_cases h8 : j = 8
  · simp [h8]
  · by_cases h9 : j = 9
    · simp [h9]
    · simp [h8, h9]

/-- A row fixes every bit of a word but S and D (R86). -/
theorem and_eq_pattern_of_matchesWord (r : OpcodeRow) (w : Word) (hr : r ∈ opcodeRows) (h : r.matchesWord w = true) :
    w &&& 0xFFFFFCFF#32 = r.pattern := by
  have hrow : ∀ q ∈ opcodeRows,
      q.mask &&& 0xFFFFFCFF#32 = 0xFFFFFCFF#32 ∧ q.pattern &&& 0xFFFFFCFF#32 = q.pattern := by decide
  obtain ⟨hmask, hpattern⟩ := hrow r hr
  have hfixed : w &&& r.mask = r.pattern := eq_of_beq h
  calc w &&& 0xFFFFFCFF#32 = (w &&& r.mask) &&& 0xFFFFFCFF#32 := by rw [BitVec.and_assoc, hmask]
    _ = r.pattern := by rw [hfixed, hpattern]

/-- A word that matches a row is the row's pattern with the word's own S and D bits. -/
theorem rowWord_of_matchesWord (r : OpcodeRow) (w : Word) (hr : r ∈ opcodeRows) (h : r.matchesWord w = true) :
    rowWord r (w.getLsbD 8) (w.getLsbD 9) = w := by
  rw [rowWord, ← and_eq_pattern_of_matchesWord r w hr h, or_operandBits]

/-- A legal word is the word of a row that it matches, with some operand bits. -/
theorem exists_rowWord_of_legalWord (w : Word) (h : legalWord w = true) :
    ∃ r ∈ opcodeRows, ∃ seed ddist, w = rowWord r seed ddist ∧ r.matchesWord (rowWord r seed ddist) = true := by
  obtain ⟨r, hr, hrw⟩ := List.any_eq_true.mp h
  have hw := rowWord_of_matchesWord r w hr hrw
  exact ⟨r, hr, _, _, hw.symm, by rw [hw, hrw]⟩

theorem legalWord_lt (w : Word) (h : legalWord w = true) : w.toNat < 1024 := by
  have hbound : ∀ r ∈ opcodeRows, ∀ seed ddist, (rowWord r seed ddist).toNat < 1024 := by decide
  obtain ⟨r, hr, seed, ddist, rfl, -⟩ := exists_rowWord_of_legalWord w h
  exact hbound r hr seed ddist

/-- The legal words listed: each row's pattern with the operand bits its mask leaves free (R86). -/
def legalWords : List Word :=
  opcodeRows.flatMap fun r =>
    [rowWord r false false, rowWord r true false, rowWord r false true, rowWord r true true].filter r.matchesWord

theorem mem_legalWords_iff (w : Word) : w ∈ legalWords ↔ legalWord w = true := by
  rw [legalWords, List.mem_flatMap]
  constructor
  · rintro ⟨r, hr, hw⟩
    exact List.any_eq_true.mpr ⟨r, hr, (List.mem_filter.mp hw).2⟩
  · intro h
    obtain ⟨r, hr, seed, ddist, rfl, hmatch⟩ := exists_rowWord_of_legalWord w h
    refine ⟨r, hr, List.mem_filter.mpr ⟨?_, hmatch⟩⟩
    cases seed <;> cases ddist <;> simp

/-- The legal numbers below 1024 are the legal words, each once. -/
theorem perm_legalWords :
    ((List.range 1024).filter fun n => legalWord (BitVec.ofNat 32 n)).Perm (legalWords.map BitVec.toNat) := by
  refine (List.perm_ext_iff_of_nodup (List.nodup_range.filter _) (by decide)).mpr fun n => ?_
  simp only [List.mem_filter, List.mem_range, List.mem_map, mem_legalWords_iff]
  constructor
  · rintro ⟨hn, hlegal⟩
    exact ⟨_, hlegal, (BitVec.toNat_ofNat n 32).trans (Nat.mod_eq_of_lt (by omega))⟩
  · rintro ⟨w, hlegal, rfl⟩
    exact ⟨legalWord_lt w hlegal, by simpa using hlegal⟩

/-- Settles O3: rows that match one word have one pattern, and the legal words are the 30 listed. -/
theorem thirtyLegalWordsInDisjointRows : Obligations.ThirtyLegalWordsInDisjointRows := by
  refine ⟨fun w r q hr hq hrw hqw => ?_, legalWord_lt, ?_⟩
  · have hpattern : ∀ a ∈ opcodeRows, ∀ b ∈ opcodeRows, a.pattern = b.pattern → a = b := by decide
    refine hpattern r hr q hq ?_
    rw [← and_eq_pattern_of_matchesWord r w hr hrw, and_eq_pattern_of_matchesWord q w hq hqw]
  · have hcount : (legalWords.map BitVec.toNat).length = 30 := by decide
    rw [perm_legalWords.length_eq, hcount]

/-! ### The checks on a word's fields -/

/-- The fields of a legal word pass every check (R86, R90). -/
theorem wellFormed_of_legalWord (w : Word) (h : legalWord w = true) : (Fields.ofWord w).wellFormed = true := by
  have hchecks : ∀ r ∈ opcodeRows, ∀ seed ddist, r.matchesWord (rowWord r seed ddist) = true →
      (Fields.ofWord (rowWord r seed ddist)).wellFormed = true := by decide
  obtain ⟨r, hr, seed, ddist, rfl, hmatch⟩ := exists_rowWord_of_legalWord w h
  exact hchecks r hr seed ddist hmatch

/-- An ENG field of 0 to 5 is the code of an engine (R82). -/
theorem exists_engCode_of_ule (c : BitVec 4) (h : c.ule 5#4 = true) : ∃ e, c = engCode e := by
  have hsome : ∀ d : BitVec 4, d.ule 5#4 = true → (engineOfCode d.toNat).isSome = true := by decide
  obtain ⟨e, he⟩ := Option.isSome_iff_exists.mp (hsome c h)
  exact ⟨e, eq_engCode_of_engineOfCode c e he⟩

theorem prefetches_of_engCode (e : Engine) (h : (engCode e = 0#4 ∨ engCode e = 3#4) ∨ engCode e = 5#4) :
    e.prefetches = true := by
  revert h
  cases e <;> decide

/-- A command's fields are its codes and operand bits, with no reserved bit (R81 to R85). -/
theorem fields_eq_codes (i : Instr) :
    i.fields = ⟨opCode i.op, engCode i.engine, i.seedBit, i.ddistBit, 0#22⟩ := rfl

/-- Fields that pass every check are those of a command (R90). -/
theorem exists_fields_of_wellFormed (f : Fields) (h : f.wellFormed = true) : ∃ i : Instr, f = i.fields := by
  obtain ⟨op, eng, seed, ddist, rsv⟩ := f
  simp only [Fields.wellFormed, Fields.rsvClear, Fields.opKnown, Fields.engKnown, Bool.and_eq_true, Bool.or_eq_true,
    beq_iff_eq] at h
  obtain ⟨⟨⟨⟨⟨rfl, hop⟩, hknown⟩, heng⟩, hseed⟩, hddist⟩ := h
  obtain ⟨e, rfl⟩ := exists_engCode_of_ule eng hknown
  have hfree : ddist = false ∨ e.prefetches = true := by
    have hcases : ddist = false ∨
        (op = 2#4 ∨ op = 3#4) ∧ ((engCode e = 0#4 ∨ engCode e = 3#4) ∨ engCode e = 5#4) := by
      simpa [Fields.ddistAllowed] using hddist
    exact hcases.imp_right fun hd => prefetches_of_engCode e hd.2
  obtain ((rfl | rfl) | rfl) | rfl := hop
  · obtain rfl : seed = false := by simpa [Fields.seedAllowed] using hseed
    obtain rfl : ddist = false := by simpa [Fields.ddistAllowed] using hddist
    have hauto : engCode e = 0#4 := by simpa [Fields.engAllowed] using heng
    exact ⟨.build, by rw [hauto]; rfl⟩
  · refine ⟨partialOf e seed ddist, ?_⟩
    rw [fields_eq_codes, partialOf_op, partialOf_engine, partialOf_seedBit, partialOf_ddistBit e seed ddist hfree,
      opCode]
  · obtain rfl : seed = false := by simpa [Fields.seedAllowed] using hseed
    refine ⟨fullOf e ddist, ?_⟩
    rw [fields_eq_codes, fullOf_op, fullOf_engine, fullOf_seedBit, fullOf_ddistBit e ddist hfree, opCode]
  · obtain rfl : ddist = false := by simpa [Fields.ddistAllowed] using hddist
    have hauto : engCode e = 0#4 := by simpa [Fields.engAllowed] using heng
    exact ⟨.finalize seed, by rw [hauto]; rfl⟩

/-- A word with a command's fields is the command's encoding. -/
theorem eq_encode_of_ofWord (w : Word) (i : Instr) (h : Fields.ofWord w = i.fields) : w = encode i := by
  rw [Fields.ofWord, fields_eq_codes, Fields.mk.injEq] at h
  obtain ⟨hop, heng, hseed, hddist, hrsv⟩ := h
  rw [encode, ← hop, ← heng, ← hseed, ← hddist, ← hrsv, packFields_extract]

/-- Settles O2: decoded words match a row, words that match a row pass the checks, and words that pass them decode. -/
theorem decodeAcceptsTheOpcodeMap : Obligations.DecodeAcceptsTheOpcodeMap := by
  intro w
  have hlegal : (∃ i, decode w = .cmd i) → legalWord w = true := fun ⟨i, hi⟩ => legalWord_of_decode w i hi
  have hchecks := wellFormed_of_legalWord w
  have hdecode : (Fields.ofWord w).wellFormed = true → ∃ i, decode w = .cmd i := by
    intro hwf
    obtain ⟨i, hfields⟩ := exists_fields_of_wellFormed _ hwf
    exact ⟨i, (decodeInvertsEncode w i).mpr (eq_encode_of_ofWord w i hfields)⟩
  exact ⟨⟨hlegal, hdecode ∘ hchecks⟩, ⟨hchecks, hlegal ∘ hdecode⟩⟩

end Sys2Proof.Machine
end

section
/-! SUPPORT. One equation for `exec` of any command, by its operation, engine and operand bits; the operands its issue
latches (30_encoding.md R88, 40_common.md R101, R102), the distance no completion reads (43_slice_engines.md R163), and
CHAIN (30_encoding.md R92). -/

namespace Sys2Proof.Machine

/-! ### Every command by its operation and engine -/

/-- The latch table by operation (R88). -/
def latchOf (i : Instr) (s : State) : Latch :=
  match i.op with
  | .buildOp => latchBuild s
  | .partialOp => latchPartial i.engine i.seedBit i.ddistBit s
  | .fullOp => latchFull i.engine i.ddistBit s
  | .finalizeOp => latchFinalize i.seedBit s

/-- What a command of an operation and engine comes to on the latched operands (R103). -/
def outcomeOf (op : Op) (e : Engine) (t : State) (l : Latch) : CmdOutcome :=
  match op with
  | .buildOp => .noResult
  | .partialOp => t.partialE e l.prev l.addr l.len
  | .fullOp => t.fullE e l.addr l.len
  | .finalizeOp => .value (finalizeWord t.table l.len l.prev)

/-- Every command is the shared operation over its row of the latch table and its operation's outcome. -/
theorem exec_eq_command (i : Instr) (s : State) : exec i s = s.command (latchOf i) (outcomeOf i.op i.engine) := by
  cases i <;> rfl

/-! ### Issue and completion -/

/-- Issue sets BUSY over the latched operands, clears DONE and changes nothing else (R101). -/
theorem exec_issue (i : Instr) (s : State) (h : s.run = .idle) :
    exec i s = .next { s with run := .busy (latchOf i s) false, status := { s.status with done := false } } := by
  rw [exec_eq_command, State.command_idle s _ _ h, State.accept]

/-- Completion builds the table if need be and finishes with the operation's outcome (R103). -/
theorem exec_completion (i : Instr) (s : State) (l : Latch) (raced : Bool) (h : s.run = .busy l raced) :
    exec i s = .next (s.buildTable.finish raced (outcomeOf i.op i.engine s.buildTable l)) := by
  rw [exec_eq_command, State.command_busy s _ _ l raced h]

/-! ### The latched operands -/

theorem resolveEngine_eq_ite (e : Engine) : resolveEngine e = if e = .auto then .s16pf else e := by
  cases e <;> rfl

/-- A prefetching engine takes the distance `D ? 256 : DIST` (R88, R168). -/
theorem State.distance_of_prefetching (s : State) (e : Engine) (ddist : Bool)
    (h : e = .auto ∨ e = .s16pf ∨ e = .s32pf) : s.distance e ddist = if ddist = true then 256#32 else s.dist := by
  have hpf : e.prefetches = true := by obtain rfl | rfl | rfl := h <;> rfl
  rw [State.distance, if_pos hpf, Config.distDefault]

/-- Settles O7: the operands are those of `latchPartial`. -/
theorem partialIssueLatchesOperands : Obligations.PartialIssueLatchesOperands := by
  intro i s hop hidle
  have hlatch : latchOf i s = latchPartial i.engine i.seedBit i.ddistBit s := by rw [latchOf, hop]
  refine ⟨_, exec_issue i s hidle, ?_⟩
  rw [hlatch]
  exact ⟨rfl, resolveEngine_eq_ite _, rfl, rfl, rfl, s.distance_of_prefetching _ _⟩

/-- Settles O8: the operands are those of `latchFull`. -/
theorem fullIssueLatchesOperands : Obligations.FullIssueLatchesOperands := by
  intro i s hop hidle
  have hlatch : latchOf i s = latchFull i.engine i.ddistBit s := by rw [latchOf, hop]
  refine ⟨_, exec_issue i s hidle, ?_⟩
  rw [hlatch]
  exact ⟨rfl, resolveEngine_eq_ite _, rfl, rfl, rfl, s.distance_of_prefetching _ _⟩

/-- Settles O9: the operands are those of `latchBuild` and `latchFinalize`. -/
theorem buildAndFinalizeIssueLatchOperands : Obligations.BuildAndFinalizeIssueLatchOperands :=
  ⟨fun s hidle => ⟨_, exec_issue .build s hidle, rfl⟩,
    fun seed s hidle => ⟨_, exec_issue (.finalize seed) s hidle, rfl, rfl, rfl⟩⟩

/-! ### The prefetch distance -/

/-- The lazy build reads neither BUSY nor LAT (R105). -/
theorem State.buildTable_withRun (s : State) (r : Run) :
    State.buildTable { s with run := r } = { s.buildTable with run := r } := by
  unfold State.buildTable
  split <;> rfl

/-- A completion's writes do not depend on what BUSY and LAT were (R103). -/
theorem State.finish_withRun (s : State) (r : Run) (raced : Bool) (o : CmdOutcome) :
    State.finish { s with run := r } raced o = s.finish raced o := by
  cases o with
  | value v => cases raced <;> rfl
  | memFault a => cases herr : s.status.err <;> simp [State.finish, State.raise, State.drawResult, State.retire, herr]
  | noResult => rfl

/-- No operation's outcome reads the distance, BUSY or LAT (R163). -/
theorem outcomeOf_withDist (op : Op) (e : Engine) (t : State) (r : Run) (l : Latch) (d : Word) :
    outcomeOf op e { t with run := r } { l with dist := d } = outcomeOf op e t l := by
  cases op <;> rfl

/-- A completion is the same for any latched distance. -/
theorem completion_withDist (op : Op) (e : Engine) (s : State) (r : Run) (raced : Bool) (l : Latch) (d : Word) :
    (State.buildTable { s with run := r }).finish raced
        (outcomeOf op e (State.buildTable { s with run := r }) { l with dist := d }) =
      s.buildTable.finish raced (outcomeOf op e s.buildTable l) := by
  rw [s.buildTable_withRun r, s.buildTable.finish_withRun r, outcomeOf_withDist op e s.buildTable r]

/-- Settles O33: both completions have the outcome of one operation and engine, which does not read the distance. -/
theorem prefetchDistanceHasNoEffect : Obligations.PrefetchDistanceHasNoEffect := by
  intro i j s l raced d hop heng hrun
  have hi := exec_completion i s l raced hrun
  have hj := exec_completion j { s with run := .busy { l with dist := d } raced } { l with dist := d } raced rfl
  rw [hi, hj, hop, heng]
  exact congrArg Host.Outcome.next (completion_withDist j.op j.engine s _ raced l d).symm

/-! ### CHAIN -/

/-- The host writes back the value its last read returned. -/
theorem step_writeBack (s : State) (off : Nat) (rest : List Event)
    (h : s.pending = .writeBack (s.platform.coreBase + off) :: rest) (hw : off < windowSize) (h4 : off % 4 = 0) :
    step s = writeOffset { s with pending := rest } off s.rdata := by
  rw [step_cons s _ rest h]
  simp [runEvent, hostWrite, Platform.reach_csr s.platform off hw h4]

/-- Settles O54: the read of RESULT binds it, and the write-back stores what was bound. -/
theorem chainCopiesResultIntoCrcIn : Obligations.ChainCopiesResultIntoCrcIn := by
  intro s rest hidle hpend
  have hread : step s =
      .next { s with pending := .writeBack (s.platform.coreBase + 0x0C) :: rest, rdata := s.result } :=
    step_rd_value s 0x24 _ hpend (by decide) (by decide) fun _ => s.busy_of_idle hidle
  rw [run_succ_of_step 1 s _ hread]
  refine run_succ_of_step 0 _ { s with pending := rest, rdata := s.result, crcIn := s.result } ?_
  exact step_writeBack _ 0x0C rest rfl (by decide) (by decide)

end Sys2Proof.Machine
end

section
/-! SUPPORT. The buffer read (40_common.md R109) and what a completion leaves, for every operation (R103, R105, R110,
R111; 44_finalize_dispatch.md R191, R192; 60_exceptions.md R223). -/

namespace Sys2Proof.Machine

/-! ### The buffer read -/

/-- The ascending scan of an admitted range finds nothing (R109). -/
theorem Platform.firstUnadmitted_eq_none (p : Platform) (a n : Nat) (h : ∀ j < n, p.admits (a + j) = true) :
    p.firstUnadmitted a n = none := by
  induction n generalizing a with
  | zero => rfl
  | succ n ih =>
    have hfirst : p.admits a = true := h 0 (by omega)
    have hrest : ∀ j < n, p.admits (a + 1 + j) = true := fun j hj => by
      rw [Nat.add_right_comm]
      exact h (j + 1) (by omega)
    rw [firstUnadmitted, if_pos hfirst, ih (a + 1) hrest]

/-- The ascending scan stops at the lowest unadmitted address (R109). -/
theorem Platform.firstUnadmitted_eq_some (p : Platform) (a n j : Nat) (hj : j < n) (hbad : p.admits (a + j) = false)
    (hgood : ∀ k < j, p.admits (a + k) = true) : p.firstUnadmitted a n = some (a + j) := by
  induction j generalizing a n with
  | zero =>
    obtain ⟨n, rfl⟩ := Nat.exists_eq_succ_of_ne_zero (Nat.ne_of_gt hj)
    rw [firstUnadmitted, if_neg (by simpa using hbad), Nat.add_zero]
  | succ j ih =>
    obtain ⟨n, rfl⟩ := Nat.exists_eq_succ_of_ne_zero (Nat.ne_of_gt (Nat.zero_lt_of_lt hj))
    have hnext : ∀ k, a + (k + 1) = a + 1 + k := by omega
    have hfirst : p.admits a = true := hgood 0 (by omega)
    rw [hnext] at hbad ⊢
    rw [firstUnadmitted, if_pos hfirst]
    exact ih (a + 1) n (by omega) hbad fun k hk => hnext k ▸ hgood (k + 1) (by omega)

/-- An address of 2^64 or above is never admitted (20_memory.md R61). -/
theorem Platform.admits_of_ge (p : Platform) (a : Nat) (h : 2 ^ 64 ≤ a) : p.admits a = false := by
  rw [admits, decide_eq_false (Nat.not_lt.mpr h), Bool.false_and]

theorem readBuf_of_admitted (p : Platform) (m : Memory) (addr n : Addr)
    (h : ∀ j < n.toNat, p.admits (addr.toNat + j) = true) :
    readBuf p m addr n = .bytes (m.readBytes addr.toNat n.toNat) := by
  rw [readBuf, p.firstUnadmitted_eq_none _ _ h]

theorem readBuf_of_unadmitted (p : Platform) (m : Memory) (addr n : Addr) (j : Nat) (hj : j < n.toNat)
    (hbad : p.admits (addr.toNat + j) = false) (hgood : ∀ k < j, p.admits (addr.toNat + k) = true) :
    readBuf p m addr n = .memFault (BitVec.ofNat 64 (addr.toNat + j)) := by
  rw [readBuf, p.firstUnadmitted_eq_some _ _ j hj hbad hgood]

/-- The bytes read stand in address order (20_memory.md R62). -/
theorem Memory.getElem?_readBytes (m : Memory) (a n j : Nat) (h : j < n) :
    (m.readBytes a n)[j]? = some (m.read (a + j)) := by
  induction n generalizing a j with
  | zero => exact absurd h (Nat.not_lt_zero j)
  | succ n ih =>
    cases j with
    | zero => rfl
    | succ j =>
      rw [readBytes, List.getElem?_cons_succ, ih (a + 1) j (by omega), Nat.add_right_comm, Nat.add_assoc]

/-- Settles O35: the scan finds nothing in an admitted range, and else the lowest unadmitted address. -/
theorem bufferReadChecksTheWholeRange : Obligations.BufferReadChecksTheWholeRange := by
  intro p m addr n
  refine ⟨fun h => ?_, readBuf_of_unadmitted p m addr n, p.admits_of_ge⟩
  exact ⟨_, readBuf_of_admitted p m addr n h, m.length_readBytes _ _, m.getElem?_readBytes _ _⟩

/-! ### BUILD and FINALIZE -/

/-- A completion without a result keeps RESULT (R103, R125). -/
theorem State.buildTable_finish_noResult (s : State) (h : s.tableOk) (raced : Bool) :
    s.buildTable.finish raced .noResult = s.completedWith s.result := by
  have hkeep : s.buildTable.finish raced .noResult = s.buildTable.finish false (.value s.buildTable.result) := rfl
  rw [hkeep, s.buildTable_result, s.buildTable_finish_value h]

/-- Settles O25: BUILD's outcome is no result. -/
theorem buildCompletes : Obligations.BuildCompletes := by
  intro s l raced hrun htable
  rw [exec_completion .build s l raced hrun]
  exact congrArg _ (s.buildTable_finish_noResult htable raced)

/-- The length fold over the built table is the one over `T` (R190). -/
theorem State.finalizeWord_buildTable (s : State) (h : s.tableOk) (n : Addr) (prev : Word) :
    finalizeWord s.buildTable.table n prev = finalizeWord T n prev := by
  rw [finalizeWord, finalizeWord, foldLength_congr _ T fun i => s.buildTable_table h 0 i (by decide)]

/-- Settles O40: FINALIZE's outcome is the length fold, and reads no memory. -/
theorem finalizeCompletes : Obligations.FinalizeCompletes := by
  intro seed s l hrun htable
  rw [exec_finalize, State.command_busy s _ _ l false hrun, s.finalizeWord_buildTable htable,
    s.buildTable_finish_value htable]

/-! ### PARTIAL -/

/-- Every PARTIAL command over a readable buffer completes with its own engine's fold (R110). -/
theorem exec_partial_completes (i : Instr) (s : State) (l : Latch) (bs : List Byte) (hop : i.op = .partialOp)
    (hrun : s.run = .busy l false) (htable : s.tableOk) (hbuf : readBuf s.platform s.mem l.addr l.len = .bytes bs) :
    exec i s = .next (s.completedWith (~~~ foldEngine T i.engine (~~~ l.prev) bs)) := by
  obtain ⟨latch, hexec⟩ := exec_partial_is_command i hop
  rw [hexec, State.command_busy s _ _ l false hrun, s.partialE_buildTable htable i.engine l.prev l.addr l.len bs hbuf,
    s.buildTable_finish_value htable, foldEngine_eq_foldBytes]

/-- Settles O26: the scalar engine's fold is the byte fold. -/
theorem partialScalarCompletes : Obligations.PartialScalarCompletes := by
  intro seed s l bs hrun htable hbuf
  exact exec_partial_completes (.partialScalar seed) s l bs rfl hrun htable hbuf

/-- Settles O27: the engines S16 and S16PF, and AUTO as S16PF, fold groups of 16 bytes. -/
theorem partialSixteenCompletes : Obligations.PartialSixteenCompletes := by
  intro seed ddist s l bs hrun htable hbuf
  exact ⟨exec_partial_completes (.partialS16 seed) s l bs rfl hrun htable hbuf,
    exec_partial_completes (.partialS16pf seed ddist) s l bs rfl hrun htable hbuf,
    exec_partial_completes (.partialAuto seed ddist) s l bs rfl hrun htable hbuf⟩

/-- Settles O28: the engines S32 and S32PF fold groups of 32 bytes. -/
theorem partialThirtyTwoCompletes : Obligations.PartialThirtyTwoCompletes := by
  intro seed ddist s l bs hrun htable hbuf
  exact ⟨exec_partial_completes (.partialS32 seed) s l bs rfl hrun htable hbuf,
    exec_partial_completes (.partialS32pf seed ddist) s l bs rfl hrun htable hbuf⟩

/-- Settles O31: a buffer of no byte is readable whatever is admitted, and every engine's fold of it is the identity. -/
theorem zeroLengthPartialKeepsTheRegister : Obligations.ZeroLengthPartialKeepsTheRegister := by
  intro i s l hop hrun htable hlen
  have hbuf : readBuf s.platform s.mem l.addr l.len = .bytes [] := by rw [hlen, readBuf_zero]
  rw [exec_partial_completes i s l [] hop hrun htable hbuf, foldEngine_eq_foldBytes, foldBytes_nil, BitVec.not_not]

/-- Settles O32: every engine computes the byte fold, which composes over concatenation. -/
theorem streamingEqualsOneFold : Obligations.StreamingEqualsOneFold := by
  intro pieces prev e
  simp only [foldEngine_eq_foldBytes]
  induction pieces generalizing prev with
  | nil => simp
  | cons p ps ih => rw [List.foldl_cons, ih, BitVec.not_not, List.flatMap_cons, foldBytes_append]

/-! ### FULL -/

/-- `cksum` is the length fold of any engine's fold from SEED (R192, R201). -/
theorem cksum_eq_finalizeWord (e : Engine) (n : Addr) (bs : List Byte) (h : bs.length = n.toNat) :
    cksum bs = finalizeWord T n (~~~ foldEngine T e (~~~ 0xFFFFFFFF#32) bs) := by
  have hseed : ~~~ 0xFFFFFFFF#32 = 0#32 := by decide
  rw [cksum, crcOf_eq_foldBytes, foldBytes_append, finalizeWord_eq_foldBytes, BitVec.not_not, foldEngine_eq_foldBytes,
    hseed, h]

/-- Settles O42: the completion's `cksum` is the length fold of the command's own engine's fold. -/
theorem fullIsFinalizeOfPartialFromSeed : Obligations.FullIsFinalizeOfPartialFromSeed := by
  intro i s l bs hop hrun htable hbuf
  rw [fullIsPosixCksum i s l bs hop hrun htable hbuf,
    cksum_eq_finalizeWord i.engine l.len bs (length_of_readBuf _ _ _ _ bs hbuf)]

/-- The CMD write of a command's word, while the core is idle, latches its operands (R101). -/
theorem step_cmdWrite_encode (i : Instr) (s : State) (rest : List Event) (hidle : s.run = .idle)
    (hpend : s.pending = s.platform.cmdWrite (encode i) :: rest) :
    step s = .next { s with
      pending := rest, run := .busy (latchOf i s) false, status := { s.status with done := false } } := by
  obtain ⟨hissue, -⟩ := stepRunsTheDecodedCommand
  exact (hissue s _ i rest hpend hidle (decode_encode i)).trans (exec_issue i { s with pending := rest } hidle)

/-- The core's scheduled turn over a readable buffer completes a latched FULL command with the `cksum` (R103, R201). -/
theorem step_core_full (s : State) (l : Latch) (bs : List Byte) (rest : List Event) (hop : l.op = .fullOp)
    (hrun : s.run = .busy l false) (htable : s.tableOk) (hpend : s.pending = .core :: rest)
    (hbuf : readBuf s.platform s.mem l.addr l.len = .bytes bs) :
    step s = .next { s.completedWith (cksum bs) with pending := rest } := by
  obtain ⟨-, hcomplete, -⟩ := stepRunsTheDecodedCommand
  rw [hcomplete s l false rest (.inl hpend) hrun]
  exact fullIsPosixCksum _ { s with pending := rest } l bs (l.command_op.trans hop) hrun htable hbuf

/-- Settles O44: the CMD write latches ADDR and LEN, and the core's turn completes the latched FULL. -/
theorem fullCommandComputesCksumInTwoSteps : Obligations.FullCommandComputesCksumInTwoSteps := by
  intro i s bs rest hop hidle htable hpend hbuf
  have hlatch : latchOf i s = latchFull i.engine i.ddistBit s := by rw [latchOf, hop]
  rw [run_succ_of_step 1 s _ (step_cmdWrite_encode i s _ hidle hpend), hlatch]
  exact run_succ_of_step 0 _ _ (step_core_full _ _ bs rest rfl rfl htable rfl hbuf)

/-! ### A buffer that is not admitted -/

/-- The lazy build and the record of an error write different registers (R105, R224). -/
theorem State.buildTable_raise (s : State) (e : ErrorKind) (info : Addr) :
    s.buildTable.raise e info = (s.raise e info).buildTable := by
  cases herr : s.status.err <;> cases htbl : s.status.tbl <;> simp [State.raise, State.buildTable, herr, htbl]

/-- A faulted completion records MEM_FAULT and completes with a draw, raced or not (60_exceptions.md R223). -/
theorem State.buildTable_finish_memFault (s : State) (h : s.tableOk) (raced : Bool) (a : Addr) :
    s.buildTable.finish raced (.memFault a) =
      { (s.raise .memFault a).completedWith (Config.freeWord s.draws) with draws := s.draws + 1 } := by
  have hraise : (s.raise .memFault a).tableOk := by simpa [State.tableOk] using h
  have hdraw : s.buildTable.finish raced (.memFault a) =
      { (s.buildTable.raise .memFault a).finish false (.value (Config.freeWord s.draws)) with
        draws := s.draws + 1 } := by
    simp [State.finish, State.drawResult, State.setResult, State.retire]
  rw [hdraw, s.buildTable_raise, State.buildTable_finish_value _ hraise]

/-- PARTIAL and FULL come to a fault where their buffer read does (R109, R110, R192). -/
theorem outcomeOf_of_memFault (op : Op) (e : Engine) (t : State) (l : Latch) (a : Addr)
    (hop : op = .partialOp ∨ op = .fullOp) (hbuf : readBuf t.platform t.mem l.addr l.len = .memFault a) :
    outcomeOf op e t l = .memFault a := by
  obtain rfl | rfl := hop
  · simp [outcomeOf, State.partialE, hbuf]
  · simp [outcomeOf, State.fullE, State.partialE, hbuf]

/-- Settles O12: the read faults at the lowest unadmitted address, and MEM_FAULT is recorded if no error was. -/
theorem unadmittedBufferFaultsAtCompletion : Obligations.UnadmittedBufferFaultsAtCompletion := by
  intro i s l raced j hop hrun htable hj hbad hgood
  have hbuf : readBuf s.buildTable.platform s.buildTable.mem l.addr l.len =
      .memFault (BitVec.ofNat 64 (l.addr.toNat + j)) := by
    rw [s.buildTable_platform]
    exact readBuf_of_unadmitted _ _ _ _ j hj hbad hgood
  rw [exec_completion i s l raced hrun, outcomeOf_of_memFault i.op i.engine _ l _ hop hbuf,
    s.buildTable_finish_memFault htable]
  constructor
  · intro herr
    rw [s.raise_eq_self _ _ herr]
  · intro herr
    rw [s.raise_of_clear _ _ herr]
    rfl

end Sys2Proof.Machine
end

section
/-! SUPPORT. The core's turn while idle (60_exceptions.md R235), and that a running command ends (40_common.md R104): a
host turn the core admits keeps BUSY and uses up one turn of the schedule. -/

namespace Sys2Proof.Machine

/-- Settles O48: the core's turn answers the idle state it is given. -/
theorem idleCoreChangesNothing : Obligations.IdleCoreChangesNothing := by
  intro s hidle
  constructor
  · intro rest hpend
    rw [step_cons s .core rest hpend]
    exact coreTurn_idle _ hidle
  · intro hpend
    rw [step_nil s hpend, coreTurn_idle s hidle]

/-! ### Host turns while a command runs -/

/-- A turn was taken that left BUSY, the rest of the schedule and the platform. -/
def State.KeepsRunning (s t : State) : Prop :=
  t.busy = s.busy ∧ t.pending = s.pending ∧ t.platform = s.platform

@[simp] theorem State.writeCsr_pending (s : State) (r : Csr) (v : Word) : (s.writeCsr r v).pending = s.pending := by
  cases r <;> simp [State.writeCsr, State.writeStatus_eq]

theorem State.keepsRunning_writeCsr (s : State) (r : Csr) (v : Word) : s.KeepsRunning (s.writeCsr r v) :=
  ⟨State.busy_congr _ _ (s.writeCsr_run r v), s.writeCsr_pending r v, s.writeCsr_platform r v⟩

theorem State.keepsRunning_raise (s : State) (e : ErrorKind) (info : Addr) : s.KeepsRunning (s.raise e info) :=
  ⟨State.busy_congr _ _ (s.raise_run e info), s.raise_pending e info, s.raise_platform e info⟩

theorem State.keepsRunning_readCsr (s : State) (r : Csr) : s.KeepsRunning (s.readCsr r) := by
  unfold State.readCsr
  split
  · exact ⟨rfl, rfl, rfl⟩
  · exact ⟨rfl, rfl, rfl⟩

theorem hostRead_keepsRunning (s : State) (addr width : Nat) (hok : s.platform.accessOk addr width = true) :
    ∃ t, hostRead s addr width = .next t ∧ s.KeepsRunning t := by
  unfold Platform.accessOk at hok
  unfold hostRead
  cases hreach : s.platform.reach addr width with
  | elsewhere => exact ⟨_, rfl, rfl, rfl, rfl⟩
  | csr off => exact ⟨_, rfl, s.keepsRunning_readCsr _⟩
  | badWidth | misaligned => rw [hreach] at hok; exact nomatch hok

/-- While BUSY = 1 a write of CMD records an error, any other writes its register (60_exceptions.md R222). -/
theorem writeOffset_keepsRunning (s : State) (off : Nat) (v : Word) (hbusy : s.busy = true) :
    ∃ t, writeOffset s off v = .next t ∧ s.KeepsRunning t := by
  unfold writeOffset
  split
  · rw [issueWord, if_pos hbusy]
    exact ⟨_, rfl, s.keepsRunning_raise _ _⟩
  · exact ⟨_, rfl, s.keepsRunning_writeCsr _ _⟩

theorem hostWrite_keepsRunning (s : State) (addr width : Nat) (v : Word) (hbusy : s.busy = true)
    (hok : s.platform.accessOk addr width = true) : ∃ t, hostWrite s addr width v = .next t ∧ s.KeepsRunning t := by
  unfold Platform.accessOk at hok
  unfold hostWrite
  cases hreach : s.platform.reach addr width with
  | elsewhere => exact ⟨_, rfl, rfl, rfl, rfl⟩
  | csr off => exact writeOffset_keepsRunning s off v hbusy
  | badWidth | misaligned => rw [hreach] at hok; exact nomatch hok

/-! ### A running command ends -/

/-- Some run of at most `k` steps ends idle. -/
def State.IdleWithin (s : State) (k : Nat) : Prop :=
  ∃ (n : Nat) (t : State), n ≤ k ∧ Host.Core.run Sys2Proof.core n s = .next t ∧ t.run = .idle

theorem State.idleWithin_of_idle (s : State) (k : Nat) (h : s.run = .idle) : s.IdleWithin k :=
  ⟨0, s, Nat.zero_le k, rfl, h⟩

theorem State.IdleWithin.of_step {s t : State} {k : Nat} (hstep : step s = .next t) (h : t.IdleWithin k) :
    s.IdleWithin (k + 1) := by
  obtain ⟨n, u, hn, hrun, hidle⟩ := h
  exact ⟨n + 1, u, Nat.succ_le_succ hn, (run_succ_of_step n s t hstep).trans hrun, hidle⟩

/-- The core's next turn ends a running command (R103). -/
theorem State.idleWithin_of_coreNext (s : State) (k : Nat) (hbusy : s.busy = true) (hcore : s.coreNext) :
    s.IdleWithin (k + 1) := by
  obtain ⟨l, raced, hrun⟩ := s.busy_iff.mp hbusy
  obtain ⟨o, hexec⟩ := exec_busy l.command s.advance l raced hrun
  obtain ⟨hidle, -⟩ := s.advance.buildTable.finish_frame raced o
  have hstep := (step_of_coreNext s hcore).trans ((coreTurn_busy s.advance l raced hrun).trans hexec)
  exact .of_step hstep (State.idleWithin_of_idle _ k hidle)

/-- By induction on the schedule: a host access or store uses up its turn, every other turn leads to the end at once. -/
theorem State.idleWithin_schedule (todo : List Event) (s : State) (hpend : s.pending = todo) (hbusy : s.busy = true)
    (hok : ∀ e ∈ todo, e.accessOk s.platform = true) : s.IdleWithin (todo.length + 1) := by
  induction todo generalizing s with
  | nil => exact s.idleWithin_of_coreNext 0 hbusy (.inl hpend)
  | cons e rest ih =>
    have hhead := hok e (List.mem_cons_self ..)
    have hstep := step_cons s e rest hpend
    have goesOn : (∃ t, runEvent { s with pending := rest } e = .next t ∧
        State.KeepsRunning { s with pending := rest } t) → s.IdleWithin ((e :: rest).length + 1) := by
      rintro ⟨t, hturn, hrunning, htodo, hplat⟩
      refine .of_step (hstep.trans hturn) (ih t htodo (hrunning.trans hbusy) fun d hd => ?_)
      rw [hplat]
      exact hok d (List.mem_cons_of_mem e hd)
    cases e with
    | read addr width => exact goesOn (hostRead_keepsRunning _ addr width hhead)
    | write addr width v => exact goesOn (hostWrite_keepsRunning _ addr width v hbusy hhead)
    | writeBack addr => exact goesOn (hostWrite_keepsRunning _ addr 4 _ hbusy hhead)
    | store a v => exact goesOn ⟨_, rfl, State.storeByte_busy _ a v, rfl, rfl⟩
    | core => exact s.idleWithin_of_coreNext _ hbusy (.inr (by rw [hpend, List.head?_cons]))
    | reset => exact .of_step hstep (State.idleWithin_of_idle _ _ rfl)
    | wait =>
      obtain ⟨l, raced, hrun⟩ := s.busy_iff.mp hbusy
      exact .of_step (step_wait_busy s l raced rest hpend hrun)
        (State.idleWithin_of_coreNext _ _ hbusy (.inr rfl))

/-- Settles O49: every turn of the schedule ends the command or is used up, and then the core moves. -/
theorem everyIssuedCommandCompletes : Obligations.EveryIssuedCommandCompletes := by
  intro s hbusy hok
  exact s.idleWithin_schedule s.pending rfl hbusy hok

end Sys2Proof.Machine
end

section
/-! SUPPORT. The slices of the table (41_table_builder.md R123, R124): each is a byte followed by zero bytes, and linear
over exclusive-or. -/

namespace Sys2Proof.Machine

/-! ### Zero bytes -/

/-- A zero byte takes the remainder through one zero-byte step (R122). -/
@[simp] theorem stepByte_zero_byte (c : Word) : stepByte T c 0#8 = zeroStep c := by simp [stepByte_eq_zeroStep]

/-- From remainder 0 a byte leaves its base entry (R121). -/
@[simp] theorem stepByte_zero_remainder (i : Byte) : stepByte T 0#32 i = T 0 i := by simp [stepByte]

theorem foldBytes_replicate_zero (k : Nat) (c : Word) : foldBytes T c (List.replicate k 0#8) = zeroStep^[k] c := by
  induction k generalizing c with
  | zero => rfl
  | succ k ih => rw [List.replicate_succ, foldBytes_cons, stepByte_zero_byte, ih, Function.iterate_succ_apply]

/-- Settles O21: the byte leaves its base entry, and each zero byte after it is one zero-byte step. -/
theorem tableSliceIsZeroByteFold : Obligations.TableSliceIsZeroByteFold := by
  intro k i
  rw [List.singleton_append, foldBytes_cons, stepByte_zero_remainder, foldBytes_replicate_zero, T_eq_iterate_zeroStep]

/-! ### Linearity -/

/-- Exclusive-or of two exclusive-ors, their middle terms exchanged. -/
theorem xor_xor_xor_comm {w : Nat} (a b c d : BitVec w) : (a ^^^ b) ^^^ (c ^^^ d) = (a ^^^ c) ^^^ (b ^^^ d) := by
  ac_rfl

theorem baseEntry_xor (a b : Byte) : baseEntry (a ^^^ b) = baseEntry a ^^^ baseEntry b := by
  rw [baseEntry, BitVec.setWidth_xor, BitVec.shiftLeft_xor_distrib, shiftStep_iterate_xor, ← baseEntry, ← baseEntry]

theorem T_xor (k : Nat) (a b : Byte) : T k (a ^^^ b) = T k a ^^^ T k b := by
  induction k with
  | zero => exact baseEntry_xor a b
  | succ k ih => simp only [T, ih, zeroStep_xor]

theorem T_zero_byte (k : Nat) : T k 0#8 = 0#32 := by
  simpa using T_xor k 0#8 0#8

theorem stepByte_xor (c d : Word) (a b : Byte) :
    stepByte T (c ^^^ d) (a ^^^ b) = stepByte T c a ^^^ stepByte T d b := by
  rw [stepByte, topByte_xor, xor_xor_xor_comm (topByte c), T_xor, BitVec.shiftLeft_xor_distrib,
    xor_xor_xor_comm (c <<< 8), ← stepByte, ← stepByte]

/-- Settles O22: the slices from the loop's linearity, by induction on the slice, and the byte update from that of
slice 0, of the top byte and of the shift. -/
theorem tableIsLinear : Obligations.TableIsLinear := ⟨T_xor, T_zero_byte, stepByte_xor⟩

end Sys2Proof.Machine
end

section
/-! SUPPORT. The byte fold as division of polynomials over GF(2) by the generator (41_table_builder.md R120): the
polynomials of a bit, of a remainder and of a message, and that one bit of the message keeps the division's equation. -/

namespace Sys2Proof.Machine

open Polynomial

/-! ### Bits and remainders as polynomials -/

/-- A bit as a constant polynomial. -/
noncomputable def bitPoly (b : Bool) : (ZMod 2)[X] := if b = true then 1 else 0

theorem bitPoly_xor (a b : Bool) : bitPoly (a ^^ b) = bitPoly a + bitPoly b := by
  cases a with
  | false => simp [bitPoly]
  | true =>
    cases b with
    | false => simp [bitPoly]
    | true => simp [bitPoly, CharTwo.add_self_eq_zero]

/-- A remainder as a polynomial, bit `n` the coefficient of `X ^ n` (R120). -/
noncomputable def wordPoly (c : Word) : (ZMod 2)[X] := ∑ n ∈ Finset.range 32, bitPoly (c.getLsbD n) * X ^ n

@[simp] theorem wordPoly_zero : wordPoly 0#32 = 0 := by simp [wordPoly, bitPoly]

theorem wordPoly_xor (c d : Word) : wordPoly (c ^^^ d) = wordPoly c + wordPoly d := by
  simp only [wordPoly, BitVec.getLsbD_xor, bitPoly_xor, add_mul, Finset.sum_add_distrib]

/-- Times `X` is a shift, with the bit shifted out as the coefficient of `X ^ 32`. -/
theorem wordPoly_mul_X (c : Word) : wordPoly c * X = wordPoly (c <<< 1) + bitPoly (c.getLsbD 31) * X ^ 32 := by
  have hlow : ∀ n ∈ Finset.range 31,
      bitPoly ((c <<< 1).getLsbD (n + 1)) * X ^ (n + 1) = bitPoly (c.getLsbD n) * X ^ n * X := by
    intro n hn
    have hbit : (c <<< 1).getLsbD (n + 1) = c.getLsbD n := by
      rw [BitVec.getLsbD_shiftLeft]
      simp [show n + 1 < 32 by have := Finset.mem_range.mp hn; omega]
    rw [hbit, pow_succ, mul_assoc]
  have hbottom : bitPoly ((c <<< 1).getLsbD 0) = 0 := by simp [bitPoly]
  rw [wordPoly, wordPoly, Finset.sum_mul, Finset.sum_range_succ, Finset.sum_range_succ' _ 31,
    Finset.sum_congr rfl hlow, hbottom]
  ring

/-- The generator polynomial (R120). -/
noncomputable def generator : (ZMod 2)[X] :=
  X ^ 32 + X ^ 26 + X ^ 23 + X ^ 22 + X ^ 16 + X ^ 12 + X ^ 11 + X ^ 10 + X ^ 8 + X ^ 7 + X ^ 5 + X ^ 4 + X ^ 2 + X + 1

/-- `poly` is the generator without its implicit term of degree 32 (R120). -/
theorem generator_eq : generator = X ^ 32 + wordPoly poly := by
  have hpoly : wordPoly poly =
      1 + X + X ^ 2 + X ^ 4 + X ^ 5 + X ^ 7 + X ^ 8 + X ^ 10 + X ^ 11 + X ^ 12 + X ^ 16 + X ^ 22 + X ^ 23 + X ^ 26 := by
    simp [wordPoly, bitPoly, poly, Finset.sum_range_succ]
  rw [hpoly, generator]
  ring

/-! ### The division, bit by bit -/

theorem wordPoly_crcBit (c : Word) (b : Bool) :
    wordPoly (crcBit c b) = wordPoly (c <<< 1) + bitPoly (c.getLsbD 31 ^^ b) * wordPoly poly := by
  rw [crcBit, bitPoly]
  split
  · rw [wordPoly_xor, one_mul]
  · rw [zero_mul, add_zero]

/-- One bit of the message is one step of the long division (R120): the remainder times `X` and the bit at degree 32,
less the generator if the coefficient of `X ^ 32` is then 1. -/
theorem wordPoly_mul_X_add_bitPoly (c : Word) (b : Bool) :
    wordPoly c * X + bitPoly b * X ^ 32 = bitPoly (c.getLsbD 31 ^^ b) * generator + wordPoly (crcBit c b) := by
  have hcancel := CharTwo.add_self_eq_zero (bitPoly (c.getLsbD 31 ^^ b) * wordPoly poly)
  rw [wordPoly_crcBit, wordPoly_mul_X, generator_eq]
  linear_combination (-X ^ 32) * bitPoly_xor (c.getLsbD 31) b - hcancel

/-- A message as a polynomial, its first bit the highest coefficient (R120). -/
noncomputable def messagePoly (bits : List Bool) : (ZMod 2)[X] := bits.foldl (fun p b => p * X + bitPoly b) 0

@[simp] theorem messagePoly_nil : messagePoly [] = 0 := rfl

@[simp] theorem messagePoly_concat (bits : List Bool) (b : Bool) :
    messagePoly (bits ++ [b]) = messagePoly bits * X + bitPoly b := by simp [messagePoly]

/-- The bit-serial fold leaves the remainder of the message, moved up by 32 degrees, by the generator (R120). -/
theorem messagePoly_mul_X_pow (bits : List Bool) :
    ∃ q, messagePoly bits * X ^ 32 = q * generator + wordPoly (bits.foldl crcBit 0#32) := by
  induction bits using List.reverseRecOn with
  | nil => exact ⟨0, by simp⟩
  | append_singleton bits b ih =>
    obtain ⟨q, hq⟩ := ih
    have hbit := wordPoly_mul_X_add_bitPoly (bits.foldl crcBit 0#32) b
    refine ⟨q * X + bitPoly ((bits.foldl crcBit 0#32).getLsbD 31 ^^ b), ?_⟩
    rw [messagePoly_concat, List.foldl_append, List.foldl_cons, List.foldl_nil]
    linear_combination X * hq + hbit

/-- Settles O23: the byte fold is the bit-serial fold, which keeps the division's equation with every bit. -/
theorem byteFoldIsPolynomialRemainder : Obligations.ByteFoldIsPolynomialRemainder := by
  intro bs
  obtain ⟨q, hq⟩ := messagePoly_mul_X_pow (bs.flatMap byteBits)
  rw [foldl_crcBit_eq_foldBytes] at hq
  refine ⟨q, hq.trans ?_⟩
  simp only [generator, wordPoly, bitPoly, ite_mul, one_mul, zero_mul]

end Sys2Proof.Machine
end

section
/-! The scalar engine as the reference of every engine (42_scalar_engine.md R141): a PARTIAL command completes with its
own engine's fold (`exec_partial_completes`), and every engine's fold is the byte fold (`foldEngine_eq_foldBytes`). -/

namespace Sys2Proof.Machine

/-- Settles O30: the command completes with its engine's fold, and that fold is the scalar engine's. -/
theorem everyEngineGivesTheScalarResult : Obligations.EveryEngineGivesTheScalarResult := by
  intro i s l bs hop hrun htable hbuf
  rw [exec_partial_completes i s l bs hop hrun htable hbuf, foldEngine_eq_foldBytes]

end Sys2Proof.Machine
end

section
/-! The slice engines' folds and hints (43_slice_engines.md R161 to R163). SUPPORT: the hint list of a latched command, one
lemma per case of `Latch.hints`, and each hint's address as a number. -/

namespace Sys2Proof.Machine

/-! ### The folds -/

/-- Settles O29: a group of at least four bytes folds as its bytes do, the remainder's four lanes absorbed by its first
four bytes, and so does a sequence of such groups with its tail. -/
theorem sliceFoldEqualsByteFold : Obligations.SliceFoldEqualsByteFold := by
  intro k hk c bs
  have hfour : 4 ≤ k := by omega
  constructor
  · rintro rfl
    exact groupStep_eq_foldBytes c bs hfour
  · exact sliceFold_eq_foldBytes k hfour c bs

/-! ### The hints -/

/-- A hint's address is the group's start plus the distance, modulo 2^64 (R161, R163). -/
theorem toNat_hintAddr (addr : Addr) (k q : Nat) (dist : Word) :
    (hintAddr addr k q dist).toNat = (addr.toNat + k * q + dist.toNat) % 2 ^ 64 := by
  have hdist : (dist.setWidth 64).toNat = dist.toNat := BitVec.toNat_setWidth_of_le (by decide)
  rw [hintAddr, BitVec.toNat_add, BitVec.toNat_add, BitVec.toNat_ofNat, hdist, Nat.add_mod_mod, Nat.mod_add_mod]

theorem Latch.hints_of_prefetches (l : Latch) (hreads : l.readsBuffer = true) (hpf : l.eng.prefetches = true) :
    l.hints = (List.range (l.len.toNat / groupWidth l.eng)).map fun q =>
      hintAddr l.addr (groupWidth l.eng) q l.dist := by
  simp [Latch.hints, hreads, hpf]

theorem Latch.hints_of_not_prefetches (l : Latch) (hpf : l.eng.prefetches = false) : l.hints = [] := by
  simp [Latch.hints, hpf]

/-- One hint per whole group of the engine's width, in the order of the groups (R161). -/
theorem Latch.hints_follow_groups (l : Latch) (hreads : l.readsBuffer = true) (hpf : l.eng.prefetches = true) :
    l.hints.length = l.len.toNat / groupWidth l.eng ∧ ∀ q, q < l.len.toNat / groupWidth l.eng →
      (l.hints[q]?).map BitVec.toNat = some ((l.addr.toNat + groupWidth l.eng * q + l.dist.toNat) % 2 ^ 64) := by
  rw [l.hints_of_prefetches hreads hpf]
  constructor
  · rw [List.length_map, List.length_range]
  · intro q hq
    rw [List.getElem?_map, List.getElem?_range hq, Option.map_some, Option.map_some, toNat_hintAddr]

/-- Settles O34: S16PF and S32PF prefetch, in groups of 16 and 32 bytes; the other three engines do not. -/
theorem hintAddressesFollowTheGroups : Obligations.HintAddressesFollowTheGroups := by
  intro l hop
  have hreads := l.readsBuffer_of_op hop
  refine ⟨fun heng => ?_, fun heng => ?_, fun heng => l.hints_of_not_prefetches ?_⟩
  · simpa only [heng, groupWidth] using l.hints_follow_groups hreads (by rw [heng]; rfl)
  · simpa only [heng, groupWidth] using l.hints_follow_groups hreads (by rw [heng]; rfl)
  · obtain heng | heng | heng := heng <;> rw [heng] <;> rfl

end Sys2Proof.Machine
end

section
/-! The length fold (44_finalize_dispatch.md R190, R202). SUPPORT: the bytes of a length are its digits in base 256, so
how many there are and which they are is the library's on `Nat.digits`. -/

namespace Sys2Proof.Machine

/-! ### The bytes of a length -/

/-- With fuel enough for the length, its bytes are its digits in base 256, the lowest first (R190). -/
theorem lengthBytes_eq_digits (fuel n : Nat) (h : n < 256 ^ fuel) :
    lengthBytes fuel n = (Nat.digits 256 n).map (BitVec.ofNat 8) := by
  induction fuel generalizing n with
  | zero =>
    obtain rfl : n = 0 := by simpa using h
    simp [lengthBytes]
  | succ fuel ih =>
    by_cases hn : n = 0
    · simp [lengthBytes, hn]
    · have hrest : n / 256 < 256 ^ fuel := Nat.div_lt_of_lt_mul (by rwa [← Nat.pow_succ'])
      have hlow : BitVec.ofNat 8 (n % 256) = BitVec.ofNat 8 n := BitVec.eq_of_toNat_eq (by simp)
      rw [lengthBytes, if_neg hn, ih _ hrest, Nat.digits_def' (by decide) (Nat.pos_of_ne_zero hn), List.map_cons, hlow]

/-- Eight bytes are enough for a 64-bit length (R190). -/
theorem lengthBytes_toNat_eq_digits (n : Addr) :
    lengthBytes 8 n.toNat = (Nat.digits 256 n.toNat).map (BitVec.ofNat 8) :=
  lengthBytes_eq_digits 8 n.toNat n.isLt

theorem length_lengthBytes (n : Addr) : (lengthBytes 8 n.toNat).length = (Nat.digits 256 n.toNat).length := by
  rw [lengthBytes_toNat_eq_digits, List.length_map]

/-- Byte `j` of a length, as a number (R190). -/
theorem getElem?_lengthBytes (n : Addr) (j : Nat) (hj : j < (lengthBytes 8 n.toNat).length) :
    ((lengthBytes 8 n.toNat)[j]?).map BitVec.toNat = some (n.toNat / 256 ^ j % 256) := by
  rw [length_lengthBytes] at hj
  have hdigit : (Nat.digits 256 n.toNat)[j] = n.toNat / 256 ^ j % 256 := by
    rw [← List.getD_eq_getElem _ 0 hj, Nat.getD_digits _ _ (by decide)]
  rw [lengthBytes_toNat_eq_digits, List.getElem?_map, List.getElem?_eq_getElem hj, hdigit]
  simp

/-- Settles O39: the length's digits in base 256 are below `256 ^ k` and at least `256 ^ (k - 1)` for the `k` of them. -/
theorem finalizeFoldsTheMinimalLength : Obligations.FinalizeFoldsTheMinimalLength := by
  refine ⟨finalizeWord_eq_foldBytes T, fun n => ⟨?_, fun hn => ?_, ?_, getElem?_lengthBytes n⟩⟩
  · rw [length_lengthBytes]
    exact Nat.lt_base_pow_length_digits (by decide)
  · have hpos : n.toNat ≠ 0 := fun h0 => hn (BitVec.eq_of_toNat_eq h0)
    have hlen := List.length_pos_of_ne_nil (Nat.digits_ne_nil_iff_ne_zero (b := 256).mpr hpos)
    rw [length_lengthBytes, ← Nat.lt_digits_length_iff (by decide)]
    exact Nat.sub_lt hlen Nat.one_pos
  · rintro rfl
    rfl

/-! ### Finalizing twice -/

/-- A length of 0 folds nothing, and the two complements cancel (R202). -/
theorem finalizeWord_zero (t : TableFn) (r : Word) : finalizeWord t 0#64 r = r := by
  rw [finalizeWord, foldLength_zero, BitVec.not_not]

/-- Settles O41: the identity for every register, and the spec's example evaluated. -/
theorem finalizeOfZeroIsIdentity : Obligations.FinalizeOfZeroIsIdentity := by
  have honce : finalizeWord T 4#64 0x9334B8E7#32 = 0xBE15CCD0#32 := by decide
  have htwice : finalizeWord T 4#64 0xBE15CCD0#32 = 0x368FCBE3#32 := by decide
  refine ⟨finalizeWord_zero T, honce, ?_⟩
  rw [honce, htwice]

end Sys2Proof.Machine
end

section
/-! SUPPORT. The errors of a CMD write (60_exceptions.md R221, R222): while BUSY any word raises CMD_WHILE_BUSY,
while idle an illegal word raises ILLEGAL_CMD. A step that raises an error with a word records it by R224. -/

namespace Sys2Proof.Machine

/-! ### EINFO of a word -/

@[simp] theorem loHalf_setWidth (w : Word) : loHalf (w.setWidth 64) = w := by
  rw [loHalf, BitVec.extractLsb'_setWidth_of_le (by decide), BitVec.extractLsb'_eq_self]

@[simp] theorem hiHalf_setWidth (w : Word) : hiHalf (w.setWidth 64) = 0#32 := by
  refine BitVec.eq_of_getLsbD_eq fun j hj => ?_
  simp [hiHalf]

/-- A step that raises an error with a word keeps an error that stands, and else records its own, with EINFO the
zero-extended word (R224). -/
theorem step_records_of_raise_word (s : State) (rest : List Event) (e : ErrorKind) (w : Word)
    (h : step s = .next (State.raise { s with pending := rest } e (w.setWidth 64))) :
    (s.status.err = true → step s = .next { s with pending := rest }) ∧
    (s.status.err = false → step s = .next { s with
      pending := rest, status := { s.status with err := true, ecode := e.code }, einfoLo := w, einfoHi := 0#32 }) := by
  constructor
  · intro herr
    rw [h, State.raise_eq_self { s with pending := rest } _ _ herr]
  · intro herr
    rw [h, State.raise_of_clear { s with pending := rest } _ _ herr, loHalf_setWidth, hiHalf_setWidth]

/-! ### The two errors of the issue step -/

/-- A word written while a command runs is not decoded (R222). -/
theorem issueWord_of_busy (s : State) (w : Word) (h : s.busy = true) :
    issueWord s w = .next (s.raise .cmdWhileBusy (w.setWidth 64)) := by
  rw [issueWord, if_pos h]

/-- A word that matches no row of the opcode map decodes to no command (R86, R87). -/
theorem decode_of_not_legalWord (w : Word) (h : legalWord w = false) : ∃ why, decode w = .illegal why := by
  cases hdecode : decode w with
  | cmd i => exact nomatch h.symm.trans (legalWord_of_decode w i hdecode)
  | illegal why => exact ⟨why, rfl⟩

/-- An illegal word written while no command runs issues nothing (R221). -/
theorem issueWord_of_not_legalWord (s : State) (w : Word) (hidle : s.busy = false) (h : legalWord w = false) :
    issueWord s w = .next (s.raise .illegalCmd (w.setWidth 64)) := by
  obtain ⟨why, hdecode⟩ := decode_of_not_legalWord w h
  rw [issueWord, hidle, hdecode]
  rfl

/-- Settles O10: while a command runs the write raises CMD_WHILE_BUSY, whatever the word. -/
theorem writeWhileBusyIsDropped : Obligations.WriteWhileBusyIsDropped := by
  intro s w rest l raced hpend hrun
  have hraise := issueWord_of_busy { s with pending := rest } w (State.busy_of_busy _ l raced hrun)
  exact step_records_of_raise_word s rest .cmdWhileBusy w ((step_cmdWrite_cons s w rest hpend).trans hraise)

/-- Settles O11: an illegal word decodes to no command, so its write raises ILLEGAL_CMD. -/
theorem illegalWordIsRecorded : Obligations.IllegalWordIsRecorded := by
  refine ⟨fun s w rest hpend hrun hillegal => ?_, by decide⟩
  have hraise := issueWord_of_not_legalWord { s with pending := rest } w (State.busy_of_idle _ hrun) hillegal
  exact step_records_of_raise_word s rest .illegalCmd w ((step_cmdWrite_cons s w rest hpend).trans hraise)

end Sys2Proof.Machine
end

section
/-! SUPPORT. What the host may do while a command runs (70_reset_and_hazards.md R265, R266): write the argument registers,
and store outside the running buffer. -/

namespace Sys2Proof.Machine

/-! ### Writes of the argument registers -/

/-- Settles O19: each offset names its register, and the write sets that field alone. -/
theorem argumentWritesTakeEffectAtOnce : Obligations.ArgumentWritesTakeEffectAtOnce := by
  intro s off v rest h
  have hwrite := step_wr_csr s off v rest h
  refine ⟨?_, ?_, ?_, ?_, ?_, ?_⟩ <;> rintro rfl <;> exact hwrite (by decide) (by decide) (by decide)

/-! ### A store outside the running command's buffer -/

theorem Latch.bufferHolds_of_not_mem_range (l : Latch) (a : Addr)
    (h : a.toNat < l.addr.toNat ∨ l.addr.toNat + l.len.toNat ≤ a.toNat) : l.bufferHolds a = false := by
  have hout : ¬ (l.addr.toNat ≤ a.toNat ∧ a.toNat < l.addr.toNat + l.len.toNat) := by omega
  rw [Latch.bufferHolds, Bool.and_assoc, ← Bool.decide_and, decide_eq_false hout, Bool.and_false]

/-- A store outside the running command's buffer changes memory alone: it races nothing, and undoes no race
(20_memory.md R67). -/
theorem State.storeByte_of_not_bufferHolds (s : State) (l : Latch) (raced : Bool) (a : Addr) (v : Byte)
    (hrun : s.run = .busy l raced) (h : l.bufferHolds a = false) :
    s.storeByte a v = { s with mem := s.mem.write a.toNat v } := by
  rw [State.storeByte, hrun, Run.noteStore, h, Bool.or_false, ← hrun]

/-- The bytes read from a range depend on the bytes of that range only. -/
theorem Memory.readBytes_congr (m m' : Memory) (a n : Nat) (h : ∀ j < n, m'.read (a + j) = m.read (a + j)) :
    m'.readBytes a n = m.readBytes a n := by
  induction n generalizing a with
  | zero => rfl
  | succ n ih =>
    have hfirst : m'.read a = m.read a := h 0 (Nat.succ_pos n)
    have hrest : ∀ j < n, m'.read (a + 1 + j) = m.read (a + 1 + j) := fun j hj => by
      rw [Nat.add_right_comm]
      exact h (j + 1) (by omega)
    rw [readBytes, readBytes, hfirst, ih (a + 1) hrest]

/-- A byte written outside a buffer leaves the buffer's read as it was, fault or bytes (40_common.md R109). -/
theorem readBuf_write_outside (p : Platform) (m : Memory) (addr n : Addr) (x : Nat) (v : Byte) (hwf : Memory.wf m = true)
    (h : x < addr.toNat ∨ addr.toNat + n.toNat ≤ x) : readBuf p (m.write x v) addr n = readBuf p m addr n := by
  have hbytes : (m.write x v).readBytes addr.toNat n.toNat = m.readBytes addr.toNat n.toNat :=
    m.readBytes_congr _ _ _ fun j hj => m.read_write_other x (addr.toNat + j) v (by omega) hwf
  rw [readBuf, readBuf, hbytes]

/-- Settles O37: a store outside the buffer changes memory alone, and the buffer does not read the written byte. -/
theorem storeElsewhereIsHarmless : Obligations.StoreElsewhereIsHarmless := by
  intro s l raced a v rest hpend hrun hwf hout
  have hmisses := l.bufferHolds_of_not_mem_range a hout
  have hstep : step s = .next { s with pending := rest, mem := s.mem.write a.toNat v } := by
    rw [step_cons s _ rest hpend, runEvent,
      State.storeByte_of_not_bufferHolds { s with pending := rest } l raced a v hrun hmisses]
  exact ⟨_, hstep, rfl, readBuf_write_outside _ _ _ _ _ v hwf hout, s.mem.read_write_same _ v hwf,
    fun x hne => s.mem.read_write_other _ x v hne hwf⟩

end Sys2Proof.Machine
end
